-- ==== Sys2Proof/Word.lean ====
section
/-! DEFINITION. The words of the machine: bytes, 12-bit addresses, 16-bit opcodes, register and key names. -/

namespace Sys2Proof

/-- A byte: a general register, a timer, a memory cell (00_scope.md R5, V_WIDTH and MEM_SIZE). -/
abbrev Byte := BitVec 8

/-- A 12-bit address: `I`, `PC`, a stack entry, `nnn` (00_scope.md R5, ADDR_BITS). -/
abbrev Addr := BitVec 12

/-- An opcode, `op[15:0]` (30_encoding.md R100). -/
abbrev Opcode := BitVec 16

/-- The name of one of V0..VF (10_state.md R31). -/
abbrev Reg := Fin 16

/-- A logical key code 0x0..0xF (00_scope.md R11). -/
abbrev Key := BitVec 4

end Sys2Proof
end

