-- ==== Sys2Proof/Syntax.lean ====
section
/-! DEFINITION. The instruction set: one constructor per row of the opcode table (30_encoding.md R105), and the
UNRECOGNIZED fallback row (R107). -/

namespace Sys2Proof

/-- One instruction, its operand fields as 30_encoding.md R101 to R103 give them. -/
inductive Instr where
  /-- 00E0, CLS (R231). -/
  | cls
  /-- 00EE, RET (R131). -/
  | ret
  /-- 1nnn, JP nnn (R132). -/
  | jp (nnn : Addr)
  /-- 2nnn, CALL nnn (R133). -/
  | call (nnn : Addr)
  /-- 3xkk, SE Vx, kk (R134). -/
  | seImm (x : Reg) (kk : Byte)
  /-- 4xkk, SNE Vx, kk (R135). -/
  | sneImm (x : Reg) (kk : Byte)
  /-- 5xy0, SE Vx, Vy (R136). -/
  | seReg (x y : Reg)
  /-- 6xkk, LD Vx, kk (R161). -/
  | ldImm (x : Reg) (kk : Byte)
  /-- 7xkk, ADD Vx, kk (R162). -/
  | addImm (x : Reg) (kk : Byte)
  /-- 8xy0, LD Vx, Vy (R163). -/
  | ldReg (x y : Reg)
  /-- 8xy1, OR Vx, Vy (R164). -/
  | orReg (x y : Reg)
  /-- 8xy2, AND Vx, Vy (R165). -/
  | andReg (x y : Reg)
  /-- 8xy3, XOR Vx, Vy (R166). -/
  | xorReg (x y : Reg)
  /-- 8xy4, ADD Vx, Vy (R167). -/
  | addReg (x y : Reg)
  /-- 8xy5, SUB Vx, Vy (R168). -/
  | sub (x y : Reg)
  /-- 8xy6, SHR Vx (R169); y is encoded and ignored. -/
  | shr (x y : Reg)
  /-- 8xy7, SUBN Vx, Vy (R170). -/
  | subn (x y : Reg)
  /-- 8xyE, SHL Vx (R171); y is encoded and ignored. -/
  | shl (x y : Reg)
  /-- 9xy0, SNE Vx, Vy (R137). -/
  | sneReg (x y : Reg)
  /-- Annn, LD I, nnn (R200). -/
  | ldI (nnn : Addr)
  /-- Bnnn, JP V0, nnn (R138). -/
  | jpV0 (nnn : Addr)
  /-- Cxkk, RND Vx, kk (R172). -/
  | rnd (x : Reg) (kk : Byte)
  /-- Dxyn, DRW Vx, Vy, n (R232); n is a row count 0..15. -/
  | drw (x y : Reg) (n : Fin 16)
  /-- Ex9E, SKP Vx (R261). -/
  | skp (x : Reg)
  /-- ExA1, SKNP Vx (R262). -/
  | sknp (x : Reg)
  /-- Fx07, LD Vx, DT (R263). -/
  | ldVxDT (x : Reg)
  /-- Fx0A, LD Vx, K (R264). -/
  | ldVxK (x : Reg)
  /-- Fx15, LD DT, Vx (R265). -/
  | ldDTVx (x : Reg)
  /-- Fx18, LD ST, Vx (R266). -/
  | ldSTVx (x : Reg)
  /-- Fx1E, ADD I, Vx (R201). -/
  | addI (x : Reg)
  /-- Fx29, LD F, Vx (R202). -/
  | ldF (x : Reg)
  /-- Fx33, LD B, Vx (R203). -/
  | ldB (x : Reg)
  /-- Fx55, LD [I], Vx (R204). -/
  | storeRegs (x : Reg)
  /-- Fx65, LD Vx, [I] (R205). -/
  | loadRegs (x : Reg)
  /-- UNRECOGNIZED, a no-op (R107). It keeps its word, so that encoding gives the word back (log 16). -/
  | unrecognized (op : Opcode)
  deriving DecidableEq, Repr

end Sys2Proof
end

