-- ==== Sys2Proof/WellFormed.lean ====
section
/-! DEFINITION. Which instruction terms stand for a word. Registers, immediates and row counts are bounded by their
types; the one thing left to check is that the word an `unrecognized` term carries is unrecognized. -/

namespace Sys2Proof

/-- The classes of 30_encoding.md R108, on the four nibbles of a word and its low byte. -/
def unrecognizedWord (op : Opcode) : Bool :=
  let o := op.toNat / 4096
  let n := op.toNat % 16
  let kk := op.toNat % 256
  if o = 0x0 then decide (op.toNat ≠ 0x00E0 ∧ op.toNat ≠ 0x00EE)
  else if o = 0x5 ∨ o = 0x9 then decide (n ≠ 0)
  else if o = 0x8 then decide (n ∈ [0x8, 0x9, 0xA, 0xB, 0xC, 0xD, 0xF])
  else if o = 0xE then decide (kk ∉ [0x9E, 0xA1])
  else if o = 0xF then decide (kk ∉ [0x07, 0x0A, 0x15, 0x18, 0x1E, 0x29, 0x33, 0x55, 0x65])
  else false

/-- A well-formed instruction: an `unrecognized` term carries a word of 30_encoding.md R108; every other term is
well formed by the types of its fields (R101, R102). -/
def Instr.wf (i : Instr) : Bool :=
  match i with
  | .unrecognized op => unrecognizedWord op
  | _ => true

end Sys2Proof
end

