-- ==== Sys2Proof/Decode.lean ====
section
/-! DEFINITION. Decoding (30_encoding.md R100 to R109), the encoder written from the same opcode map, and the map
itself as mask and match rows. -/

namespace Sys2Proof

/-- The two bytes of an opcode, high byte first (20_memory.md R73). -/
def opcodeOfBytes (hi lo : Byte) : Opcode := hi ++ lo

/-- `o`, op[15:12], the major opcode (30_encoding.md R101). -/
def fieldO (op : Opcode) : BitVec 4 := op.extractLsb' 12 4

/-- `x`, op[11:8] (30_encoding.md R101). -/
def fieldX (op : Opcode) : Reg := (op.extractLsb' 8 4).toFin

/-- `y`, op[7:4] (30_encoding.md R101). -/
def fieldY (op : Opcode) : Reg := (op.extractLsb' 4 4).toFin

/-- `n`, op[3:0] (30_encoding.md R101). -/
def fieldN (op : Opcode) : Fin 16 := (op.extractLsb' 0 4).toFin

/-- `kk`, op[7:0] (30_encoding.md R101). -/
def fieldKK (op : Opcode) : Byte := op.extractLsb' 0 8

/-- `nnn`, op[11:0] (30_encoding.md R101). -/
def fieldNNN (op : Opcode) : Addr := op.extractLsb' 0 12

/-- Words whose major opcode is 0: 00E0 and 00EE, matched whole (30_encoding.md R104). -/
def decode0 (op : Opcode) : Instr :=
  match op.toNat with
  | 0x00E0 => .cls
  | 0x00EE => .ret
  | _ => .unrecognized op

/-- The 8xyN group by its minor opcode N (30_encoding.md R106). -/
def decode8 (op : Opcode) : Instr :=
  match (fieldN op).val with
  | 0x0 => .ldReg (fieldX op) (fieldY op)
  | 0x1 => .orReg (fieldX op) (fieldY op)
  | 0x2 => .andReg (fieldX op) (fieldY op)
  | 0x3 => .xorReg (fieldX op) (fieldY op)
  | 0x4 => .addReg (fieldX op) (fieldY op)
  | 0x5 => .sub (fieldX op) (fieldY op)
  | 0x6 => .shr (fieldX op) (fieldY op)
  | 0x7 => .subn (fieldX op) (fieldY op)
  | 0xE => .shl (fieldX op) (fieldY op)
  | _ => .unrecognized op

/-- The Exkk group by its low byte (30_encoding.md R105). -/
def decodeE (op : Opcode) : Instr :=
  match (fieldKK op).toNat with
  | 0x9E => .skp (fieldX op)
  | 0xA1 => .sknp (fieldX op)
  | _ => .unrecognized op

/-- The Fxkk group by its low byte (30_encoding.md R105). -/
def decodeF (op : Opcode) : Instr :=
  match (fieldKK op).toNat with
  | 0x07 => .ldVxDT (fieldX op)
  | 0x0A => .ldVxK (fieldX op)
  | 0x15 => .ldDTVx (fieldX op)
  | 0x18 => .ldSTVx (fieldX op)
  | 0x1E => .addI (fieldX op)
  | 0x29 => .ldF (fieldX op)
  | 0x33 => .ldB (fieldX op)
  | 0x55 => .storeRegs (fieldX op)
  | 0x65 => .loadRegs (fieldX op)
  | _ => .unrecognized op

/-- The instruction of a word, total on every word (30_encoding.md R104, R109). -/
def decode (op : Opcode) : Instr :=
  match (fieldO op).toNat with
  | 0x0 => decode0 op
  | 0x1 => .jp (fieldNNN op)
  | 0x2 => .call (fieldNNN op)
  | 0x3 => .seImm (fieldX op) (fieldKK op)
  | 0x4 => .sneImm (fieldX op) (fieldKK op)
  | 0x5 => if fieldN op = 0 then .seReg (fieldX op) (fieldY op) else .unrecognized op
  | 0x6 => .ldImm (fieldX op) (fieldKK op)
  | 0x7 => .addImm (fieldX op) (fieldKK op)
  | 0x8 => decode8 op
  | 0x9 => if fieldN op = 0 then .sneReg (fieldX op) (fieldY op) else .unrecognized op
  | 0xA => .ldI (fieldNNN op)
  | 0xB => .jpV0 (fieldNNN op)
  | 0xC => .rnd (fieldX op) (fieldKK op)
  | 0xD => .drw (fieldX op) (fieldY op) (fieldN op)
  | 0xE => decodeE op
  | 0xF => decodeF op
  | _ => .unrecognized op

/-- Why a byte sequence is not an instruction: fewer than the two bytes of 30_encoding.md R100. Raised only by
`decodeBytes`; the machine's fetch always has two bytes. Safe. -/
inductive DecodeError where
  | truncated
  deriving DecidableEq, Repr

/-- Decode the first instruction of a byte sequence and give the rest (30_encoding.md R100, 20_memory.md R73). -/
def decodeBytes (bytes : List Byte) : Except DecodeError (Instr × List Byte) :=
  match bytes with
  | hi :: lo :: rest => .ok (decode (opcodeOfBytes hi lo), rest)
  | _ => .error .truncated

/-- A word of nibbles `o`, `x`, `y`, `n` (30_encoding.md R101). -/
def packNibbles (o : BitVec 4) (x y n : Fin 16) : Opcode :=
  o ++ BitVec.ofFin (w := 4) x ++ BitVec.ofFin (w := 4) y ++ BitVec.ofFin (w := 4) n

/-- A word of `o`, `x`, `kk` (30_encoding.md R101). -/
def packImm (o : BitVec 4) (x : Reg) (kk : Byte) : Opcode := o ++ BitVec.ofFin (w := 4) x ++ kk

/-- A word of `o`, `nnn` (30_encoding.md R101). -/
def packAddr (o : BitVec 4) (nnn : Addr) : Opcode := o ++ nnn

/-- The word of an instruction, from the patterns of 30_encoding.md R105. -/
def encode (i : Instr) : Opcode :=
  match i with
  | .cls => 0x00E0
  | .ret => 0x00EE
  | .jp nnn => packAddr 0x1 nnn
  | .call nnn => packAddr 0x2 nnn
  | .seImm x kk => packImm 0x3 x kk
  | .sneImm x kk => packImm 0x4 x kk
  | .seReg x y => packNibbles 0x5 x y 0x0
  | .ldImm x kk => packImm 0x6 x kk
  | .addImm x kk => packImm 0x7 x kk
  | .ldReg x y => packNibbles 0x8 x y 0x0
  | .orReg x y => packNibbles 0x8 x y 0x1
  | .andReg x y => packNibbles 0x8 x y 0x2
  | .xorReg x y => packNibbles 0x8 x y 0x3
  | .addReg x y => packNibbles 0x8 x y 0x4
  | .sub x y => packNibbles 0x8 x y 0x5
  | .shr x y => packNibbles 0x8 x y 0x6
  | .subn x y => packNibbles 0x8 x y 0x7
  | .shl x y => packNibbles 0x8 x y 0xE
  | .sneReg x y => packNibbles 0x9 x y 0x0
  | .ldI nnn => packAddr 0xA nnn
  | .jpV0 nnn => packAddr 0xB nnn
  | .rnd x kk => packImm 0xC x kk
  | .drw x y n => packNibbles 0xD x y n
  | .skp x => packImm 0xE x 0x9E
  | .sknp x => packImm 0xE x 0xA1
  | .ldVxDT x => packImm 0xF x 0x07
  | .ldVxK x => packImm 0xF x 0x0A
  | .ldDTVx x => packImm 0xF x 0x15
  | .ldSTVx x => packImm 0xF x 0x18
  | .addI x => packImm 0xF x 0x1E
  | .ldF x => packImm 0xF x 0x29
  | .ldB x => packImm 0xF x 0x33
  | .storeRegs x => packImm 0xF x 0x55
  | .loadRegs x => packImm 0xF x 0x65
  | .unrecognized op => op

/-- A row of the opcode map: a word is the row's instruction when `op & mask = value` (30_encoding.md R105). -/
structure OpcodeRow where
  mask : Opcode
  value : Opcode
  deriving DecidableEq, Repr

/-- The row an instruction belongs to (30_encoding.md R105); the fallback row of R107 has mask 0. -/
def Instr.row (i : Instr) : OpcodeRow :=
  match i with
  | .cls => ⟨0xFFFF, 0x00E0⟩
  | .ret => ⟨0xFFFF, 0x00EE⟩
  | .jp _ => ⟨0xF000, 0x1000⟩
  | .call _ => ⟨0xF000, 0x2000⟩
  | .seImm _ _ => ⟨0xF000, 0x3000⟩
  | .sneImm _ _ => ⟨0xF000, 0x4000⟩
  | .seReg _ _ => ⟨0xF00F, 0x5000⟩
  | .ldImm _ _ => ⟨0xF000, 0x6000⟩
  | .addImm _ _ => ⟨0xF000, 0x7000⟩
  | .ldReg _ _ => ⟨0xF00F, 0x8000⟩
  | .orReg _ _ => ⟨0xF00F, 0x8001⟩
  | .andReg _ _ => ⟨0xF00F, 0x8002⟩
  | .xorReg _ _ => ⟨0xF00F, 0x8003⟩
  | .addReg _ _ => ⟨0xF00F, 0x8004⟩
  | .sub _ _ => ⟨0xF00F, 0x8005⟩
  | .shr _ _ => ⟨0xF00F, 0x8006⟩
  | .subn _ _ => ⟨0xF00F, 0x8007⟩
  | .shl _ _ => ⟨0xF00F, 0x800E⟩
  | .sneReg _ _ => ⟨0xF00F, 0x9000⟩
  | .ldI _ => ⟨0xF000, 0xA000⟩
  | .jpV0 _ => ⟨0xF000, 0xB000⟩
  | .rnd _ _ => ⟨0xF000, 0xC000⟩
  | .drw _ _ _ => ⟨0xF000, 0xD000⟩
  | .skp _ => ⟨0xF0FF, 0xE09E⟩
  | .sknp _ => ⟨0xF0FF, 0xE0A1⟩
  | .ldVxDT _ => ⟨0xF0FF, 0xF007⟩
  | .ldVxK _ => ⟨0xF0FF, 0xF00A⟩
  | .ldDTVx _ => ⟨0xF0FF, 0xF015⟩
  | .ldSTVx _ => ⟨0xF0FF, 0xF018⟩
  | .addI _ => ⟨0xF0FF, 0xF01E⟩
  | .ldF _ => ⟨0xF0FF, 0xF029⟩
  | .ldB _ => ⟨0xF0FF, 0xF033⟩
  | .storeRegs _ => ⟨0xF0FF, 0xF055⟩
  | .loadRegs _ => ⟨0xF0FF, 0xF065⟩
  | .unrecognized _ => ⟨0x0000, 0x0000⟩

/-- The rows of 30_encoding.md R105 in the table's order, 00E0 to 8xyE. -/
def opcodeRowsLow : List OpcodeRow :=
  [⟨0xFFFF, 0x00E0⟩, ⟨0xFFFF, 0x00EE⟩, ⟨0xF000, 0x1000⟩, ⟨0xF000, 0x2000⟩, ⟨0xF000, 0x3000⟩, ⟨0xF000, 0x4000⟩] ++
  [⟨0xF00F, 0x5000⟩, ⟨0xF000, 0x6000⟩, ⟨0xF000, 0x7000⟩, ⟨0xF00F, 0x8000⟩, ⟨0xF00F, 0x8001⟩, ⟨0xF00F, 0x8002⟩] ++
  [⟨0xF00F, 0x8003⟩, ⟨0xF00F, 0x8004⟩, ⟨0xF00F, 0x8005⟩, ⟨0xF00F, 0x8006⟩, ⟨0xF00F, 0x8007⟩, ⟨0xF00F, 0x800E⟩]

/-- The rows of 30_encoding.md R105 in the table's order, 9xy0 to Fx65. -/
def opcodeRowsHigh : List OpcodeRow :=
  [⟨0xF00F, 0x9000⟩, ⟨0xF000, 0xA000⟩, ⟨0xF000, 0xB000⟩, ⟨0xF000, 0xC000⟩, ⟨0xF000, 0xD000⟩] ++
  [⟨0xF0FF, 0xE09E⟩, ⟨0xF0FF, 0xE0A1⟩, ⟨0xF0FF, 0xF007⟩, ⟨0xF0FF, 0xF00A⟩, ⟨0xF0FF, 0xF015⟩, ⟨0xF0FF, 0xF018⟩] ++
  [⟨0xF0FF, 0xF01E⟩, ⟨0xF0FF, 0xF029⟩, ⟨0xF0FF, 0xF033⟩, ⟨0xF0FF, 0xF055⟩, ⟨0xF0FF, 0xF065⟩]

/-- The opcode map, 34 rows in the order of 30_encoding.md R105. -/
def opcodeRows : List OpcodeRow := opcodeRowsLow ++ opcodeRowsHigh

/-- `op & mask = match` (30_encoding.md R105). -/
def OpcodeRow.hits (r : OpcodeRow) (op : Opcode) : Bool := op &&& r.mask == r.value

/-- The bytes, lowest address first, of a word numbered as spec/opcode_table.json numbers it: bit 0 the least
significant bit of the one 16-bit word, stored high byte first (20_memory.md R73). -/
def tableBytes (w : Nat) : List Byte := [BitVec.ofNat 8 (w / 256), BitVec.ofNat 8 w]

/-- The host's question: the instruction the decoder reads from an instruction word of `nbits` bits. An instruction
has 16 bits (30_encoding.md R100), so bits beyond them make no instruction of this hardware. -/
def decodeTableWord (nbits w : Nat) : Option Instr :=
  if w % 2 ^ nbits < 65536 then
    match decodeBytes (tableBytes (w % 2 ^ nbits)) with
    | .ok (i, _) => some i
    | .error _ => none
  else none

end Sys2Proof
end

