-- ==== Sys2Proof/Config.lean ====
section
/-! DEFINITION. What this hardware fixes (the parameters of 00_scope.md R6 at their defaults) and the free inputs
the spec leaves to the host (60_exceptions.md R319), each an opaque constant no proof can see into. -/

namespace Sys2Proof

/-- STACK_DEPTH (00_scope.md R6, default for this hardware `some 16`; `none` is the unbounded stack).
DESIGN CHOICE of the spec (decision D5), log 12; unsafe for a block with another bound. -/
def Config.stackDepth : Option Nat := some 16

/-- STEPS_PER_TICK, N (00_scope.md R6, default 10). DESIGN CHOICE of the spec (decision D24), log 13; unsafe
for a block with another N. -/
def Config.stepsPerTick : Nat := 10

/-- TICK_PERIOD in milliseconds (00_scope.md R6). Timing only: no rule depends on it and no definition of the
model reads it (70_reset_and_hazards.md R347), log 13; safe. -/
def Config.tickPeriodMs : Nat := 17

/-- Glyphs 0 to 7 of the default font (93_implementation_defined.md G1). -/
def Config.fontLow : List Byte :=
  [0xF0, 0x90, 0x90, 0x90, 0xF0] ++
  [0x20, 0x60, 0x20, 0x20, 0x70] ++
  [0xF0, 0x10, 0xF0, 0x80, 0xF0] ++
  [0xF0, 0x10, 0xF0, 0x10, 0xF0] ++
  [0x90, 0x90, 0xF0, 0x10, 0x10] ++
  [0xF0, 0x80, 0xF0, 0x10, 0xF0] ++
  [0xF0, 0x80, 0xF0, 0x90, 0xF0] ++
  [0xF0, 0x10, 0x20, 0x40, 0x40]

/-- Glyphs 8 to F of the default font (93_implementation_defined.md G1). -/
def Config.fontHigh : List Byte :=
  [0xF0, 0x90, 0xF0, 0x90, 0xF0] ++
  [0xF0, 0x90, 0xF0, 0x10, 0xF0] ++
  [0xF0, 0x90, 0xF0, 0x90, 0x90] ++
  [0xE0, 0x90, 0xE0, 0x90, 0xE0] ++
  [0xF0, 0x80, 0x80, 0x80, 0xF0] ++
  [0xE0, 0x90, 0x90, 0x90, 0xE0] ++
  [0xF0, 0x80, 0xF0, 0x80, 0xF0] ++
  [0xF0, 0x80, 0xF0, 0x80, 0x80]

/-- FONT, 80 bytes (00_scope.md R6, default table of 93_implementation_defined.md G1). PRESUMED, log 14: the
source lost the bytes; unsafe for a block with another table. A claim that reads font bytes names `Config.font`, or takes
the table as an argument (`State.resetWith`). -/
def Config.font : Vector Byte 80 := ⟨⟨Config.fontLow ++ Config.fontHigh⟩, rfl⟩

/-- The `rand8` input at the n-th sample (41_alu.md R172): a free value, log 5; safe. -/
opaque Config.rand8 : Nat → Byte

/-- The `key_down[15:0]` input at the n-th sample (44_timers_keypad.md R260): a free value, log 6; safe. -/
opaque Config.keyDown : Nat → BitVec 16

/-- The answer of `KeyDown(k)` for k > 0xF at the n-th sample, a free Boolean (44_timers_keypad.md R260), log 6; safe. -/
opaque Config.keyDownBeyond : Nat → Byte → Bool

end Sys2Proof
end

