-- ==== Sys2Proof/Machine/State.lean ====
section
/-! DEFINITION. The machine's state as plain data (10_state.md R30), its events and outputs (R44, R45), the reasons a
step can stop, and the state after reset (R46). -/

namespace Sys2Proof.Machine

/-- Memory as a sparse list of (address, byte), addresses rising, holding only bytes that differ from what an
unlisted address reads as (20_memory.md R70; the canonical form is `Memory.wf`). -/
abbrev Memory := List Host.Cell

/-- The framebuffer: 32 rows of 64 pixels (10_state.md R38). -/
abbrev Framebuffer := Vector (Vector Bool 64) 32

/-- The framebuffer with every pixel false. -/
def Framebuffer.blank : Framebuffer := Vector.replicate 32 (Vector.replicate 64 false)

/-- The fault register's values (10_state.md R40). -/
inductive FaultReg where
  /-- None, code 0. -/
  | noFault
  /-- StackOverflow, code 1: written by a 2nnn at a full stack (60_exceptions.md R307). -/
  | stackOverflow
  /-- StackUnderflow, code 2: written by a 00EE at an empty stack (60_exceptions.md R307). -/
  | stackUnderflow
  deriving DecidableEq, Repr

/-- An event of the host (10_state.md R44, 60_exceptions.md R300). -/
inductive Event where
  /-- Enter the initial state (70_reset_and_hazards.md R340). -/
  | reset
  /-- A write of the load port (20_memory.md R86). -/
  | load (a : Addr) (b : Byte)
  /-- The periodic tick (60_exceptions.md R301). -/
  | tick
  /-- A key release, already a logical key (44_timers_keypad.md R267). -/
  | keyRelease (k : Key)
  /-- A repaint request (60_exceptions.md R306). -/
  | repaint
  deriving DecidableEq, Repr

/-- A signal the block emits (10_state.md R45). -/
inductive Output where
  /-- The pulse `tone_start` (60_exceptions.md R303). -/
  | toneStart
  /-- The pulse `tone_stop` (60_exceptions.md R303). -/
  | toneStop
  /-- The pulse `redraw` with the whole framebuffer (43_display.md R235). -/
  | redraw (fb : Framebuffer)
  deriving DecidableEq, Repr

/-- The complete state. The first ten fields are 10_state.md R30's; the last five hold the block's interface. -/
structure State where
  /-- `mem` (20_memory.md R70). -/
  mem : Memory
  /-- `V[0..15]` (10_state.md R31); V[15] is VF, the flag (R32). -/
  v : Vector Byte 16
  /-- `I` (10_state.md R33). -/
  i : Addr
  /-- `PC` (10_state.md R34). -/
  pc : Addr
  /-- The call stack, its top last (10_state.md R35). -/
  stack : List Addr
  /-- `DT` (10_state.md R36). -/
  dt : Byte
  /-- `ST` (10_state.md R37). -/
  st : Byte
  /-- `FB[r][c]` (10_state.md R38). -/
  fb : Framebuffer
  /-- The waiting-for-key flag (10_state.md R39). -/
  waiting : Bool
  /-- The fault register (10_state.md R40). -/
  fault : FaultReg
  /-- Whether the load port is still open: from reset to the first tick, key release or repaint (20_memory.md R86);
  DEDUCED, log 9. -/
  loadPhase : Bool
  /-- The events delivered and not yet processed, oldest first (60_exceptions.md R300); log 1. -/
  events : List Event
  /-- `none` between events; `some k` inside a tick whose burst may run k more steps (60_exceptions.md R304); log 1. -/
  burst : Option Nat
  /-- The signals emitted so far, oldest first (10_state.md R45); log 8. -/
  outputs : List Output
  /-- How many samples of the free inputs have been taken (60_exceptions.md R319); the model's own, log 7. -/
  draws : Nat
  deriving DecidableEq, Repr

/-- The reasons a step ends in a fault. Both are raised by the step alone, when the block is faulted, between events,
and no event is left to process: a faulted block is never a normal final state (60_exceptions.md R309). Log 3; safe. -/
inductive Fault where
  /-- The fault register holds StackOverflow and no event is left. Safe. -/
  | stackOverflow
  /-- The fault register holds StackUnderflow and no event is left. Safe. -/
  | stackUnderflow
  deriving DecidableEq, Repr

/-- The reasons a step is refused. No step of this model refuses: every word has a meaning (60_exceptions.md R305). -/
inductive Refusal where
  /-- An instruction without a meaning yet, named by its mnemonic; raised only by a rejected arm of `exec`, of which
  there is none. Safe. -/
  | notModelled (mnemonic : String)
  deriving DecidableEq, Repr

/-- What a step or an instruction answers. -/
abbrev Result := Host.Outcome State Fault Refusal

/-- The state after reset (10_state.md R46, 70_reset_and_hazards.md R340): memory lists nothing, since unlisted
addresses read as their reset contents. The last five fields are the model's own (logs 1, 2, 7, 8, 9). -/
def State.reset : State where
  mem := []
  v := Vector.replicate 16 0
  i := 0x000
  pc := 0x200
  stack := []
  dt := 0
  st := 0
  fb := Framebuffer.blank
  waiting := false
  fault := .noFault
  loadPhase := true
  events := []
  burst := none
  outputs := []
  draws := 0

end Sys2Proof.Machine
end

