-- ==== Sys2Proof/Machine/Memory.lean ====
section
/-! DEFINITION. Memory: address reduction, what an unlisted address reads as, one-byte reads and writes over the
canonical list (20_memory.md R70 to R72). -/

namespace Sys2Proof.Machine

/-- `mask12(v) = v mod 0x1000` (20_memory.md R71). -/
def mask12 (v : Nat) : Addr := BitVec.ofNat 12 v

/-- What an address that memory does not list reads as: the reset contents, FONT at 0x000..0x04F and zero
elsewhere (10_state.md R46), for the default FONT. A list over it holds any contents, those of another FONT among them
(`State.resetWith`), log 14. -/
def Memory.unlisted (a : Nat) : Byte := (Config.font[a]?).getD 0

/-- The byte at an address. -/
def Memory.read (m : Memory) (a : Nat) : Byte :=
  match m with
  | [] => Memory.unlisted a
  | (k, b) :: rest => if k = a then b else Memory.read rest a

/-- A cell in front of a memory, left out where it says what an unlisted address reads as anyway. -/
def Memory.cons (a : Nat) (b : Byte) (m : Memory) : Memory :=
  if b = Memory.unlisted a then m else (a, b) :: m

/-- Store a byte at an address, keeping the canonical form. -/
def Memory.write (m : Memory) (a : Nat) (b : Byte) : Memory :=
  match m with
  | [] => Memory.cons a b []
  | (k, c) :: rest =>
    if a < k then Memory.cons a b ((k, c) :: rest)
    else if a = k then Memory.cons a b rest
    else (k, c) :: Memory.write rest a b

/-- Every address of the list lies above a bound, rising, inside the address space, and every byte differs from what
its address would read as unlisted. -/
def Memory.wfAbove (bound : Nat) (m : Memory) : Bool :=
  match m with
  | [] => true
  | (k, b) :: rest =>
    decide (bound ≤ k) && decide (k < 4096) && decide (b ≠ Memory.unlisted k) && Memory.wfAbove (k + 1) rest

/-- The canonical form of a memory: addresses strictly rising and below 0x1000 (20_memory.md R70), no entry equal to
what an unlisted address reads as. Equal memories are equal lists. -/
def Memory.wf (m : Memory) : Bool := Memory.wfAbove 0 m

/-- Bytes stored from an address on. -/
def Memory.place (m : Memory) (a : Nat) (bytes : List Byte) : Memory :=
  match bytes with
  | [] => m
  | b :: rest => Memory.place (m.write a b) (a + 1) rest

/-- The state after reset of a block with the given FONT (00_scope.md R6, 10_state.md R46, 70_reset_and_hazards.md R340):
`mem[a] <- FONT[a]` for a in 0x000..0x04F. With the default FONT it is `State.reset`. FONT has no other use. -/
def State.resetWith (font : Vector Byte 80) : State := { State.reset with mem := Memory.place [] 0x000 font.toList }

/-- `MemRead(a, 1)`: the byte at `mask12(a)` (20_memory.md R72). -/
def State.readByte (s : State) (a : Addr) : Byte := s.mem.read a.toNat

/-- `MemWrite(a, 1, b)`: store a byte at `mask12(a)` (20_memory.md R72). No address is protected (R78). -/
def State.writeByte (s : State) (a : Addr) (b : Byte) : State := { s with mem := s.mem.write a.toNat b }

end Sys2Proof.Machine
end

