-- ==== Sys2Proof/Machine/Ops.lean ====
section
/-! DEFINITION. The named operations over registers, the program counter, the call stack, the framebuffer, and fault
entry: the primitives of 00_scope.md R9. -/

namespace Sys2Proof.Machine

/-- `V[x]` (00_scope.md R9). -/
def State.reg (s : State) (x : Reg) : Byte := s.v[x]

/-- `V[x] <- b` (00_scope.md R9). No register is hardwired (10_state.md R31). -/
def State.setReg (s : State) (x : Reg) (b : Byte) : State := { s with v := s.v.set x b }

/-- `I <- a` (00_scope.md R9); an `Addr` is already reduced by `mask12`. -/
def State.setI (s : State) (a : Addr) : State := { s with i := a }

/-- `pc <- a` (00_scope.md R9). -/
def State.setPc (s : State) (a : Addr) : State := { s with pc := a }

/-- `DT <- b` (00_scope.md R9). -/
def State.setDt (s : State) (b : Byte) : State := { s with dt := b }

/-- `ST <- b` (00_scope.md R9). -/
def State.setSt (s : State) (b : Byte) : State := { s with st := b }

/-- The whole framebuffer replaced. -/
def State.setFb (s : State) (fb : Framebuffer) : State := { s with fb := fb }

/-- `waiting <- b` (00_scope.md R9). -/
def State.setWaiting (s : State) (b : Bool) : State := { s with waiting := b }

/-- The call stack replaced. -/
def State.setStack (s : State) (stack : List Addr) : State := { s with stack := stack }

/-- The fault register written. -/
def State.setFault (s : State) (f : FaultReg) : State := { s with fault := f }

/-- One more sample of the free inputs taken (60_exceptions.md R319). -/
def State.countDraw (s : State) : State := { s with draws := s.draws + 1 }

/-- `next = mask12(PC + 2)` (40_control_flow.md R130). -/
def State.next (s : State) : Addr := mask12 (s.pc.toNat + 2)

/-- `skip = mask12(PC + 4)` (40_control_flow.md R130). -/
def State.skip (s : State) : Addr := mask12 (s.pc.toNat + 4)

/-- `pc <- next`. -/
def State.advance (s : State) : State := s.setPc s.next

/-- `if b then pc <- skip else pc <- next` (40_control_flow.md R134). -/
def State.skipIf (s : State) (b : Bool) : State := s.setPc (if b then s.skip else s.next)

/-- `raise Fault(code)`, taking an exception: the fault register is written and nothing else changes; PC keeps the
address of the faulting instruction, and there is no vector, handler, saved register or mode (60_exceptions.md R308).
There is no return from a fault; only reset clears it (R309, R310). Log 4. -/
def State.raiseFault (s : State) (code : FaultReg) : State := s.setFault code

/-- `Push(a)`, then `k` on the pushed state; a full stack raises StackOverflow instead (10_state.md R35). The bound
is an argument: `none` is the unbounded stack (00_scope.md R6). -/
def State.push (s : State) (depth : Option Nat) (a : Addr) (k : State → State) : State :=
  if depth = some s.stack.length then s.raiseFault .stackOverflow else k (s.setStack (s.stack ++ [a]))

/-- `Pop()`, then `k` on the popped address and state; an empty stack raises StackUnderflow instead (10_state.md R35). -/
def State.pop (s : State) (k : Addr → State → State) : State :=
  match s.stack.getLast? with
  | none => s.raiseFault .stackUnderflow
  | some a => k a (s.setStack s.stack.dropLast)

/-- `fault_code[1:0]`, the fault register's code (10_state.md R40, R45). -/
def State.faultCode (s : State) : BitVec 2 :=
  match s.fault with
  | .noFault => 0
  | .stackOverflow => 1
  | .stackUnderflow => 2

/-- `FB[r][c]` (00_scope.md R9). -/
def Framebuffer.pixel (fb : Framebuffer) (r : Fin 32) (c : Fin 64) : Bool := fb[r][c]

/-- `FB[r][c] <- not FB[r][c]` (43_display.md R232). -/
def Framebuffer.toggle (fb : Framebuffer) (r : Fin 32) (c : Fin 64) : Framebuffer :=
  fb.set r (fb[r].set c (!fb[r][c]))

/-- `FB[r][c]` of a state. -/
def State.pixel (s : State) (r : Fin 32) (c : Fin 64) : Bool := s.fb.pixel r c

/-- The opcode at PC: `MemRead(PC, 1) : MemRead(PC + 1, 1)` (20_memory.md R73). -/
def State.fetch (s : State) : Opcode := opcodeOfBytes (s.readByte s.pc) (s.readByte (mask12 (s.pc.toNat + 1)))

end Sys2Proof.Machine
end

