-- ==== Sys2Proof/Machine/Operands.lean ====
section
/-! DEFINITION. The operand forms: the one data addressing mode, the computed jump and glyph addresses, the decimal
digits, and the sampled inputs (42_index_memory.md R206, 40_control_flow.md R138, 44_timers_keypad.md R260). -/

namespace Sys2Proof.Machine

/-- `mask12(I + k)`, the one data addressing mode (42_index_memory.md R206). -/
def State.indexed (s : State) (k : Nat) : Addr := mask12 (s.i.toNat + k)

/-- Register number k of a count 0..x (42_index_memory.md R204). -/
def regOf (k : Nat) : Reg := Fin.ofNat 16 k

/-- `mask12(zext_12(V[0]) + nnn)` (40_control_flow.md R138). -/
def jumpTarget (v0 : Byte) (nnn : Addr) : Addr := mask12 (v0.toNat + nnn.toNat)

/-- `mask12(zext_12(vx) * 5)`, the whole Vx, not its low nibble (42_index_memory.md R202). -/
def glyphAddress (vx : Byte) : Addr := mask12 (vx.toNat * 5)

/-- `vx / 100` (42_index_memory.md R203). -/
def hundreds (vx : Byte) : Byte := BitVec.ofNat 8 (vx.toNat / 100)

/-- `(vx / 10) % 10` (42_index_memory.md R203). -/
def tens (vx : Byte) : Byte := BitVec.ofNat 8 (vx.toNat / 10 % 10)

/-- `vx % 10` (42_index_memory.md R203). -/
def ones (vx : Byte) : Byte := BitVec.ofNat 8 (vx.toNat % 10)

/-- `KeyDown(k)` on a sampled `key_down` input: bit k for k in 0x0..0xF, a free Boolean above (44_timers_keypad.md
R260, decision D30). -/
def keyDownOf (levels : BitVec 16) (beyond : Bool) (k : Byte) : Bool :=
  if k.toNat < 16 then levels.getLsbD k.toNat else beyond

/-- `KeyDown(k)` at the state's next sample of the free inputs (44_timers_keypad.md R260), log 6. -/
def State.keyDown (s : State) (k : Byte) : Bool :=
  keyDownOf (Config.keyDown s.draws) (Config.keyDownBeyond s.draws k) k

/-- `Rand8()` at the state's next sample of the free inputs (41_alu.md R172), log 5. -/
def State.rand8 (s : State) : Byte := Config.rand8 s.draws

end Sys2Proof.Machine
end

