-- ==== Sys2Proof/Machine/Flags.lean ====
section
/-! DEFINITION. The flag computations and the order of result and flag (10_state.md R32, 41_alu.md R160, R173). -/

namespace Sys2Proof.Machine

/-- The flag register, V[0xF] (10_state.md R32). -/
def VF : Reg := 15

/-- A flag's value as VF holds it: 1 or 0 (41_alu.md R167). -/
def flagByte (b : Bool) : Byte := if b then 1 else 0

/-- Carry out of bit 7: `vx + vy > 0xFF` (41_alu.md R167). -/
def carry (vx vy : Byte) : Bool := decide (vx.toNat + vy.toNat > 0xFF)

/-- NOT borrow of `a - b`: 1 iff `a > b`, so 0 at equality (41_alu.md R168, R170; 90_conflicts.md C3). -/
def notBorrow (a b : Byte) : Bool := decide (a.toNat > b.toNat)

/-- The bit a right shift by one shifts out, bit 0 (41_alu.md R169). -/
def lowBit (vx : Byte) : Bool := vx.getLsbD 0

/-- The bit a left shift by one shifts out, bit 7 (41_alu.md R171). -/
def highBit (vx : Byte) : Bool := vx.getLsbD 7

/-- `V[0xF] <- flag`. -/
def State.setFlag (s : State) (b : Bool) : State := s.setReg VF (flagByte b)

/-- The result to V[x] first, the flag to VF last (41_alu.md R160, decision D14). -/
def State.setResult (s : State) (x : Reg) (result : Byte) (flag : Bool) : State := (s.setReg x result).setFlag flag

end Sys2Proof.Machine
end

