-- ==== Sys2Proof/Machine/Alu.lean ====
section
/-! DEFINITION. Register loads, arithmetic, logic, shifts and the random byte (41_alu.md R160 to R172). -/

namespace Sys2Proof.Machine

/-- 6xkk, LD Vx, kk (41_alu.md R161). -/
def execLdImm (x : Reg) (kk : Byte) (s : State) : Result := .next (s.setReg x kk).advance

/-- 7xkk, ADD Vx, kk, with no flag (41_alu.md R162). -/
def execAddImm (x : Reg) (kk : Byte) (s : State) : Result := .next (s.setReg x (s.reg x + kk)).advance

/-- 8xy0, LD Vx, Vy (41_alu.md R163). -/
def execLdReg (x y : Reg) (s : State) : Result := .next (s.setReg x (s.reg y)).advance

/-- 8xy1, OR Vx, Vy; VF is not written (41_alu.md R164, decision D12). -/
def execOrReg (x y : Reg) (s : State) : Result := .next (s.setReg x (s.reg x ||| s.reg y)).advance

/-- 8xy2, AND Vx, Vy; VF is not written (41_alu.md R165, decision D12). -/
def execAndReg (x y : Reg) (s : State) : Result := .next (s.setReg x (s.reg x &&& s.reg y)).advance

/-- 8xy3, XOR Vx, Vy; VF is not written (41_alu.md R166, decision D12). -/
def execXorReg (x y : Reg) (s : State) : Result := .next (s.setReg x (s.reg x ^^^ s.reg y)).advance

/-- 8xy4, ADD Vx, Vy with VF = carry (41_alu.md R167). -/
def execAddReg (x y : Reg) (s : State) : Result :=
  .next (s.setResult x (s.reg x + s.reg y) (carry (s.reg x) (s.reg y))).advance

/-- 8xy5, SUB Vx, Vy with VF = 1 iff Vx > Vy (41_alu.md R168). -/
def execSub (x y : Reg) (s : State) : Result :=
  .next (s.setResult x (s.reg x - s.reg y) (notBorrow (s.reg x) (s.reg y))).advance

/-- 8xy6, SHR Vx with VF = the bit shifted out; y is ignored (41_alu.md R169, decision D11). -/
def execShr (x _y : Reg) (s : State) : Result :=
  .next (s.setResult x (s.reg x >>> 1) (lowBit (s.reg x))).advance

/-- 8xy7, SUBN Vx, Vy with VF = 1 iff Vy > Vx (41_alu.md R170, decision D15). -/
def execSubn (x y : Reg) (s : State) : Result :=
  .next (s.setResult x (s.reg y - s.reg x) (notBorrow (s.reg y) (s.reg x))).advance

/-- 8xyE, SHL Vx with VF = the bit shifted out; y is ignored (41_alu.md R171, decision D11). -/
def execShl (x _y : Reg) (s : State) : Result :=
  .next (s.setResult x (s.reg x <<< 1) (highBit (s.reg x))).advance

/-- Cxkk on a given random byte (41_alu.md R172). -/
def rndWith (r : Byte) (x : Reg) (kk : Byte) (s : State) : State := (s.setReg x (r &&& kk)).advance

/-- Cxkk, RND Vx, kk: the `rand8` input is sampled once and ANDed with kk (41_alu.md R172), log 5. -/
def execRnd (x : Reg) (kk : Byte) (s : State) : Result := .next (rndWith s.rand8 x kk s).countDraw

end Sys2Proof.Machine
end

