-- ==== Sys2Proof/Machine/ControlFlow.lean ====
section
/-! DEFINITION. Return, jumps, call and the four register skips (40_control_flow.md R130 to R138). -/

namespace Sys2Proof.Machine

/-- 00EE, RET (40_control_flow.md R131): pop into PC; an empty stack raises StackUnderflow. -/
def execRet (s : State) : Result := .next (s.pop fun a t => t.setPc a)

/-- 1nnn, JP nnn (40_control_flow.md R132). -/
def execJp (nnn : Addr) (s : State) : Result := .next (s.setPc nnn)

/-- 2nnn with the stack bound as an argument (40_control_flow.md R133, 00_scope.md R6). -/
def callWith (depth : Option Nat) (nnn : Addr) (s : State) : State := s.push depth s.next fun t => t.setPc nnn

/-- 2nnn, CALL nnn (40_control_flow.md R133): push PC + 2 and jump; a full stack raises StackOverflow. -/
def execCall (nnn : Addr) (s : State) : Result := .next (callWith Config.stackDepth nnn s)

/-- 3xkk, SE Vx, kk (40_control_flow.md R134). -/
def execSeImm (x : Reg) (kk : Byte) (s : State) : Result := .next (s.skipIf (s.reg x == kk))

/-- 4xkk, SNE Vx, kk (40_control_flow.md R135). -/
def execSneImm (x : Reg) (kk : Byte) (s : State) : Result := .next (s.skipIf (s.reg x != kk))

/-- 5xy0, SE Vx, Vy (40_control_flow.md R136). -/
def execSeReg (x y : Reg) (s : State) : Result := .next (s.skipIf (s.reg x == s.reg y))

/-- 9xy0, SNE Vx, Vy (40_control_flow.md R137). -/
def execSneReg (x y : Reg) (s : State) : Result := .next (s.skipIf (s.reg x != s.reg y))

/-- Bnnn, JP V0, nnn (40_control_flow.md R138). -/
def execJpV0 (nnn : Addr) (s : State) : Result := .next (s.setPc (jumpTarget (s.reg 0) nnn))

end Sys2Proof.Machine
end

