-- ==== Sys2Proof/Machine/Display.lean ====
section
/-! DEFINITION. Clear and sprite draw (43_display.md R230 to R233). -/

namespace Sys2Proof.Machine

/-- 00E0, CLS; VF is not changed (43_display.md R231). -/
def execCls (s : State) : Result := .next (s.setFb Framebuffer.blank).advance

/-- The framebuffer being drawn on and the collision so far, `FB` and `col` (43_display.md R232). -/
structure Canvas where
  fb : Framebuffer
  col : Bool
  deriving DecidableEq, Repr

/-- The row a sprite row lands on: `(vy + r) mod 32` (43_display.md R232). -/
def pixelRow (vy : Byte) (r : Nat) : Fin 32 := Fin.ofNat 32 (vy.toNat + r)

/-- The column a sprite column lands on: `(vx + c) mod 64` (43_display.md R232). -/
def pixelCol (vx : Byte) (c : Nat) : Fin 64 := Fin.ofNat 64 (vx.toNat + c)

/-- One sprite bit at (row, column): a 1 bit toggles its pixel and notes a collision where the pixel was true; a 0 bit
leaves it unchanged (43_display.md R232). -/
def Canvas.drawBit (d : Canvas) (r : Fin 32) (c : Fin 64) (bit : Bool) : Canvas :=
  if bit then ⟨d.fb.toggle r c, d.col || d.fb.pixel r c⟩ else d

/-- One sprite byte at a row, bit 7 leftmost, columns ascending (43_display.md R232, decision D17). -/
def Canvas.drawByte (d : Canvas) (vx : Byte) (r : Fin 32) (b : Byte) : Canvas :=
  (List.range 8).foldl (fun d c => d.drawBit r (pixelCol vx c) (b.getLsbD (7 - c))) d

/-- n sprite rows from memory at I, rows ascending (43_display.md R232). -/
def State.drawSprite (s : State) (vx vy : Byte) (n : Nat) : Canvas :=
  (List.range n).foldl (fun d r => d.drawByte vx (pixelRow vy r) (s.readByte (s.indexed r))) ⟨s.fb, false⟩

/-- Dxyn, DRW Vx, Vy, n: the coordinates are the old Vx and Vy, and VF is written last with the collision
(43_display.md R232). -/
def execDrw (x y : Reg) (n : Fin 16) (s : State) : Result :=
  let d := s.drawSprite (s.reg x) (s.reg y) n.val
  .next ((s.setFb d.fb).setFlag d.col).advance

end Sys2Proof.Machine
end

