-- ==== Sys2Proof/Machine/IndexMemory.lean ====
section
/-! DEFINITION. The index register and the memory transfers (42_index_memory.md R200 to R205). -/

namespace Sys2Proof.Machine

/-- Annn, LD I, nnn (42_index_memory.md R200). -/
def execLdI (nnn : Addr) (s : State) : Result := .next (s.setI nnn).advance

/-- Fx1E, ADD I, Vx, with no flag (42_index_memory.md R201, decision D13). -/
def execAddI (x : Reg) (s : State) : Result := .next (s.setI (s.indexed (s.reg x).toNat)).advance

/-- Fx29, LD F, Vx (42_index_memory.md R202). -/
def execLdF (x : Reg) (s : State) : Result := .next (s.setI (glyphAddress (s.reg x))).advance

/-- Fx33, LD B, Vx: three digits at I, I + 1, I + 2 (42_index_memory.md R203). -/
def execLdB (x : Reg) (s : State) : Result :=
  .next (((s.writeByte (s.indexed 0) (hundreds (s.reg x))).writeByte (s.indexed 1) (tens (s.reg x))).writeByte
    (s.indexed 2) (ones (s.reg x))).advance

/-- Store V[0]..V[count-1] at I, I + 1, ..., in ascending order (42_index_memory.md R204). -/
def State.storeRange (s : State) (count : Nat) : State :=
  (List.range count).foldl (fun t k => t.writeByte (t.indexed k) (t.reg (regOf k))) s

/-- Load V[0]..V[count-1] from I, I + 1, ..., in ascending order (42_index_memory.md R205). -/
def State.loadRange (s : State) (count : Nat) : State :=
  (List.range count).foldl (fun t k => t.setReg (regOf k) (t.readByte (t.indexed k))) s

/-- Fx55, LD [I], Vx: V0..Vx inclusive, I unchanged (42_index_memory.md R204, decision D16). -/
def execStoreRegs (x : Reg) (s : State) : Result := .next (s.storeRange (x.val + 1)).advance

/-- Fx65, LD Vx, [I]: V0..Vx inclusive, I unchanged (42_index_memory.md R205, decision D16). -/
def execLoadRegs (x : Reg) (s : State) : Result := .next (s.loadRange (x.val + 1)).advance

end Sys2Proof.Machine
end

