-- ==== Sys2Proof/Machine/NoOp.lean ====
section
/-! DEFINITION. The unrecognized words (30_encoding.md R107). -/

namespace Sys2Proof.Machine

/-- UNRECOGNIZED: a no-op that advances PC by 2 (30_encoding.md R107). -/
def execUnrecognized (_op : Opcode) (s : State) : Result := .next s.advance

end Sys2Proof.Machine
end

