-- ==== Sys2Proof/Machine/TimersKeypad.lean ====
section
/-! DEFINITION. The key skips, the timer transfers and the key wait (44_timers_keypad.md R260 to R266). -/

namespace Sys2Proof.Machine

/-- Ex9E, SKP Vx: skip if key Vx is down, on one sample of the key input (44_timers_keypad.md R261), log 6. -/
def execSkp (x : Reg) (s : State) : Result := .next (s.skipIf (s.keyDown (s.reg x))).countDraw

/-- ExA1, SKNP Vx: skip if key Vx is up, on one sample of the key input (44_timers_keypad.md R262), log 6. -/
def execSknp (x : Reg) (s : State) : Result := .next (s.skipIf (!s.keyDown (s.reg x))).countDraw

/-- Fx07, LD Vx, DT (44_timers_keypad.md R263). -/
def execLdVxDT (x : Reg) (s : State) : Result := .next (s.setReg x s.dt).advance

/-- Fx0A, LD Vx, K: enter the key wait; PC and Vx are not written here, the key-release event writes them
(44_timers_keypad.md R264, R267). -/
def execLdVxK (_x : Reg) (s : State) : Result := .next (s.setWaiting true)

/-- Fx15, LD DT, Vx (44_timers_keypad.md R265). -/
def execLdDTVx (x : Reg) (s : State) : Result := .next (s.setDt (s.reg x)).advance

/-- Fx18, LD ST, Vx; it emits no tone signal (44_timers_keypad.md R266). -/
def execLdSTVx (x : Reg) (s : State) : Result := .next (s.setSt (s.reg x)).advance

end Sys2Proof.Machine
end

