-- ==== Sys2Proof/Machine/Events.lean ====
section
/-! DEFINITION. The host's events: reset, the load port, the tick's timers and tone, the key release, the repaint, and
the output they emit (60_exceptions.md R300 to R306, 44_timers_keypad.md R267, 20_memory.md R86). -/

namespace Sys2Proof.Machine

/-- `emit <signal>` (00_scope.md R9). -/
def State.emit (s : State) (o : Output) : State := { s with outputs := s.outputs ++ [o] }

/-- `emit redraw(FB)`: the whole framebuffer as it stands (43_display.md R235). -/
def State.redraw (s : State) : State := s.emit (.redraw s.fb)

/-- The load port closes: the first tick, key release or repaint has come (20_memory.md R86), log 9. -/
def State.closeLoad (s : State) : State := { s with loadPhase := false }

/-- The burst's remaining steps set, or `none` between events (60_exceptions.md R304). -/
def State.setBurst (s : State) (b : Option Nat) : State := { s with burst := b }

/-- The pending events replaced. -/
def State.setEvents (s : State) (es : List Event) : State := { s with events := es }

/-- A timer's countdown: one less while nonzero, floor at 0 (60_exceptions.md R302, R303). -/
def countDown (b : Byte) : Byte := if b ≠ 0 then b - 1 else b

/-- The tone signal of a tick, from ST before and after its countdown (60_exceptions.md R303). -/
def toneSignal (stOld stNew : Byte) : List Output :=
  if stOld = 1 then [.toneStop] else if stNew ≠ 0 then [.toneStart] else []

/-- The first lines of a tick: DT, then ST, then the tone signal (60_exceptions.md R301). -/
def State.countTimers (s : State) : State :=
  { s with
    dt := countDown s.dt
    st := countDown s.st
    outputs := s.outputs ++ toneSignal s.st (countDown s.st) }

/-- Whether a step may run: neither waiting nor faulted (60_exceptions.md R301, R304). -/
def State.canStep (s : State) : Bool := !s.waiting && s.fault == .noFault

/-- `reset` of a block with the given FONT: every element at its reset value; no output (70_reset_and_hazards.md R340).
The events still to come, the signals already emitted and the sample counter are the host's side and stay (log 11). -/
def State.resetEvent (font : Vector Byte 80) (s : State) : State :=
  { State.resetWith font with events := s.events, outputs := s.outputs, draws := s.draws }

/-- `load(addr, byte)`: a write while the load phase lasts, nothing after it (20_memory.md R86), logs 9 and 10. -/
def State.loadEvent (a : Addr) (b : Byte) (s : State) : State := if s.loadPhase then s.writeByte a b else s

/-- The register the key-wait resolution names: the low nibble of the byte at PC (44_timers_keypad.md R267). -/
def State.waitRegister (s : State) : Reg := Fin.ofNat 16 (s.readByte s.pc &&& 0x0F).toNat

/-- `key_release(k)`: while waiting, write k into the register named at PC, clear the wait, advance PC; otherwise
nothing (44_timers_keypad.md R267, R268). -/
def State.keyReleaseEvent (k : Key) (s : State) : State :=
  if s.waiting then ((s.setReg s.waitRegister (k.setWidth 8)).setWaiting false).advance.closeLoad else s.closeLoad

/-- `repaint`: emit `redraw(FB)` and change nothing else (60_exceptions.md R306). -/
def State.repaintEvent (s : State) : State := s.redraw.closeLoad

/-- The start of a tick: timers and tone, then a burst of at most `steps` steps is opened (60_exceptions.md R301). -/
def State.beginTick (steps : Nat) (s : State) : State := (s.countTimers.setBurst (some steps)).closeLoad

/-- The end of a tick: the burst is closed and the framebuffer redrawn (60_exceptions.md R301). -/
def State.endTick (s : State) : State := s.redraw.setBurst none

/-- One delivered event; a tick is opened here and its burst run by the steps that follow (60_exceptions.md R300). -/
def State.deliver (e : Event) (s : State) : State :=
  match e with
  | .reset => s.resetEvent Config.font
  | .load a b => s.loadEvent a b
  | .tick => s.beginTick Config.stepsPerTick
  | .keyRelease k => s.keyReleaseEvent k
  | .repaint => s.repaintEvent

/-- The load port's writes for a ROM image: byte j at 0x200 + j for j < 0xE00, excess bytes dropped (20_memory.md
R86). -/
def loadEventsFrom (base : Nat) (image : List Byte) : List Event :=
  match image with
  | [] => []
  | b :: rest => .load (mask12 base) b :: loadEventsFrom (base + 1) rest

/-- The events of loading a ROM image (20_memory.md R86). -/
def loadImage (image : List Byte) : List Event := loadEventsFrom 0x200 (image.take 0xE00)

end Sys2Proof.Machine
end

