-- ==== Sys2Proof/Machine/Scheduler.lean ====
section
/-! DEFINITION. How the machine moves: an instruction of an open burst, the end of a tick, or the next event; and the
same tick as the one indivisible transition the spec writes (60_exceptions.md R300 to R305). -/

namespace Sys2Proof.Machine

/-- The instruction at PC (60_exceptions.md R305). -/
def State.current (s : State) : Instr := decode s.fetch

/-- Between events with none left: nothing happens, unless the block is faulted, which is never a normal final state
(60_exceptions.md R309), log 3. -/
def State.atRest (s : State) : Result :=
  match s.fault with
  | .noFault => .next s
  | .stackOverflow => .fault .stackOverflow
  | .stackUnderflow => .fault .stackUnderflow

/-- One move between events: process the oldest pending event. -/
def State.nextEvent (s : State) : Result :=
  match s.events with
  | [] => s.atRest
  | e :: rest => .next (State.deliver e (s.setEvents rest))

/-- One move. Inside a tick with steps left, and neither waiting nor faulted: one instruction, fetched, decoded and
executed (60_exceptions.md R304, R305). Inside a tick otherwise: its end. Between events: the next event. -/
def State.move (s : State) : Result :=
  match s.burst with
  | some (k + 1) => if s.canStep then exec s.current (s.setBurst (some k)) else .next s.endTick
  | some 0 => .next s.endTick
  | none => s.nextEvent

/-- The next state's continuation of an answer. -/
def andThen (r : Result) (k : State → Result) : Result :=
  match r with
  | .next s => k s
  | .fault e => .fault e
  | .refused e => .refused e

/-- `Burst()` as the spec writes it: at most n steps, stopping at a wait or a fault (60_exceptions.md R304). -/
def burstLoop (n : Nat) (s : State) : Result :=
  match n with
  | 0 => .next s
  | n + 1 => if s.canStep then andThen (exec s.current s) (burstLoop n) else .next s

/-- The whole tick as one transition: timers and tone, the burst, the redraw (60_exceptions.md R301). -/
def State.wholeTick (steps : Nat) (s : State) : Result :=
  andThen (burstLoop steps s.countTimers.closeLoad) fun t => .next t.redraw

/-- An event as one indivisible transition (60_exceptions.md R300). -/
def State.wholeEvent (e : Event) (s : State) : Result :=
  match e with
  | .tick => s.wholeTick Config.stepsPerTick
  | .reset => .next (s.resetEvent Config.font)
  | .load a b => .next (s.loadEvent a b)
  | .keyRelease k => .next (s.keyReleaseEvent k)
  | .repaint => .next s.repaintEvent

/-- The next burst counter in which a step is allowed: the one already open, or a new tick's. -/
def openBurst (b : Option Nat) : Nat :=
  match b with
  | some (k + 1) => k + 1
  | _ => Config.stepsPerTick

/-- The state in which the very next move runs the instruction at PC: inside a tick, not waiting, not faulted, and the
load phase over, as it is inside every tick. -/
def State.readyToStep (s : State) : State :=
  ({ s with waiting := false, fault := .noFault }.setBurst (some (openBurst s.burst))).closeLoad

/-- An instruction word stored at PC, high byte first (20_memory.md R73). -/
def State.placeWord (s : State) (w : Nat) : State :=
  (s.writeByte s.pc (BitVec.ofNat 8 (w / 256))).writeByte (mask12 (s.pc.toNat + 1)) (BitVec.ofNat 8 w)

end Sys2Proof.Machine
end

