-- ==== Sys2Proof/Machine/Step.lean ====
section
/-! DEFINITION. The step, and the host's way of putting an instruction where the next step fetches. -/

namespace Sys2Proof.Machine

/-- One step of the machine: an instruction of the burst, the end of a tick, or the next event (`State.move`). -/
def step (s : State) : Host.Outcome State Fault Refusal := s.move

/-- The state with an instruction word stored at PC and the block inside a tick, so that the very next step fetches
and runs exactly it; it stands for the load and the tick that bring a program to run (log 2). An instruction has 16
bits; bits above `nbits` are zero. -/
def State.withFetchWord (s : State) (nbits w : Nat) : State := (s.placeWord (w % 2 ^ nbits)).readyToStep

end Sys2Proof.Machine
end

