-- ==== Sys2Proof/Safety.lean ====
section
/-! DEFINITION. What counts as a safe state and a safe run, the invariants of 10_state.md R47, and what it means for a
part of the state to be left alone. -/

namespace Sys2Proof.Machine

/-- The opcode at PC is an Fx0A, byte by byte (10_state.md R47 (d)). -/
def State.atKeyWait (s : State) : Prop :=
  (s.readByte s.pc).toNat / 16 = 0xF ∧ s.readByte (mask12 (s.pc.toNat + 1)) = 0x0A

/-- The invariants of 10_state.md R47, the canonical form of memory, and what the load phase excludes (20_memory.md
R86). R47 (a), addresses below 0x1000, holds by the type of `Addr`. -/
structure State.Sound (s : State) : Prop where
  /-- Memory is in its canonical form. -/
  mem : s.mem.wf = true
  /-- R47 (b): the stack keeps its bound. -/
  depth : ∀ d, Config.stackDepth = some d → s.stack.length ≤ d
  /-- R47 (c): waiting and faulted never together. -/
  exclusive : ¬ (s.waiting = true ∧ s.fault ≠ .noFault)
  /-- R47 (d): a waiting block stands at its Fx0A. -/
  wait : s.waiting = true → s.atKeyWait
  /-- The load phase lies between reset and the first tick, so no step has run in it. -/
  load : s.loadPhase = true → s.waiting = false ∧ s.fault = .noFault ∧ s.burst = none

/-- A safe state: the fault register is clear (60_exceptions.md R309). -/
def State.unfaulted (s : State) : Prop := s.fault = .noFault

/-- A safe run of k steps: it ends in a next state, and that state is not faulted. A fault is sticky, so no state of
the run is faulted but for one that a `reset` event cleared. -/
def SafeRun (k : Nat) (s : State) : Prop := ∃ t, Host.Core.run Sys2Proof.core k s = .next t ∧ t.unfaulted

/-- The parts of the state a frame speaks of, as a reader of the state sees them. -/
inductive Part where
  | byte (a : Addr)
  | reg (r : Reg)
  | index
  | pc
  | stack
  | dt
  | st
  | display
  | waiting
  | fault
  | loadPhase
  | events
  | burst
  | outputs
  | draws
  deriving DecidableEq, Repr

/-- A part reads the same in both states: a byte of memory through `State.readByte`, a register through `State.reg`. -/
def Part.same (p : Part) (s t : State) : Prop :=
  match p with
  | .byte a => t.readByte a = s.readByte a
  | .reg r => t.reg r = s.reg r
  | .index => t.i = s.i
  | .pc => t.pc = s.pc
  | .stack => t.stack = s.stack
  | .dt => t.dt = s.dt
  | .st => t.st = s.st
  | .display => t.fb = s.fb
  | .waiting => t.waiting = s.waiting
  | .fault => t.fault = s.fault
  | .loadPhase => t.loadPhase = s.loadPhase
  | .events => t.events = s.events
  | .burst => t.burst = s.burst
  | .outputs => t.outputs = s.outputs
  | .draws => t.draws = s.draws

/-- Every part that is not listed reads as before (00_scope.md R10: an element a rule does not name keeps its value). -/
def UnchangedExcept (written : List Part) (s t : State) : Prop := ∀ p : Part, p ∉ written → p.same s t

/-- PC went to the next instruction, `mask12(PC + 2)` (40_control_flow.md R130). -/
def PcAdvanced (s t : State) : Prop := t.pc.toNat = (s.pc.toNat + 2) % 0x1000

/-- PC went to `mask12(PC + 4)` where the skip is taken and to `mask12(PC + 2)` where not (40_control_flow.md R130). -/
def PcSkipped (taken : Prop) (s t : State) : Prop :=
  (taken → t.pc.toNat = (s.pc.toNat + 4) % 0x1000) ∧ (¬ taken → t.pc.toNat = (s.pc.toNat + 2) % 0x1000)

end Sys2Proof.Machine
end

