-- ==== Sys2Proof/Certificates/Slice0/Obligations.lean ====
section
/-! DEFINITION. The statements for the provers, from the numbered rules of spec/. A docstring names the rule, or the
decision of 92_eei_decisions.md and the log entry that a clause rests on. -/

namespace Sys2Proof.Claims

open Sys2Proof.Machine

/-- op[11:8] as a number's digits, written apart from the decoder (30_encoding.md R101). -/
def wordX (op : Opcode) : Reg := Fin.ofNat 16 (op.toNat / 256)

/-- op[7:4] (30_encoding.md R101). -/
def wordY (op : Opcode) : Reg := Fin.ofNat 16 (op.toNat / 16)

/-- op[3:0] (30_encoding.md R101). -/
def wordN (op : Opcode) : Fin 16 := Fin.ofNat 16 op.toNat

/-- op[7:0] (30_encoding.md R101). -/
def wordKK (op : Opcode) : Byte := BitVec.ofNat 8 op.toNat

/-- op[11:0] (30_encoding.md R101). -/
def wordNNN (op : Opcode) : Addr := BitVec.ofNat 12 op.toNat

/-- Every word with `op & mask = value` decodes to the given instruction of the word's fields. -/
def Encoded (mask value : Opcode) (i : Opcode → Instr) : Prop := ∀ op : Opcode, op &&& mask = value → decode op = i op

/-- The instruction completes, in a next state that has the given relation to the state before. -/
def Completes (i : Instr) (s : State) (post : State → Prop) : Prop := ∃ t, exec i s = .next t ∧ post t

/-- One step completes, in a next state that has the given relation to the state before. -/
def Steps (s : State) (post : State → Prop) : Prop := ∃ t, step s = .next t ∧ post t

/-- The state between events with an event next in line. -/
def withEvent (s : State) (e : Event) (rest : List Event) : State := (s.setBurst none).setEvents (e :: rest)

/-- The values of 10_state.md R46 for a FONT, read through the model's accessors. -/
structure AtResetValues (font : Vector Byte 80) (t : State) : Prop where
  memory : ∀ a : Addr, t.readByte a = if h : a.toNat < 80 then font[a.toNat] else 0
  regs : ∀ r, t.reg r = 0
  index : t.i = 0x000
  pc : t.pc = 0x200
  stack : t.stack = []
  timers : t.dt = 0 ∧ t.st = 0
  display : ∀ r c, t.pixel r c = false
  waiting : t.waiting = false
  fault : t.fault = .noFault

/-- `KeyDown(vx)` at the state's next sample (44_timers_keypad.md R260): bit vx of the sampled `key_down`, or the free
Boolean where vx names no key. -/
def KeyIsDown (s : State) (vx : Byte) : Prop :=
  (vx.toNat < 16 ∧ (Config.keyDown s.draws).getLsbD vx.toNat = true) ∨
  (16 ≤ vx.toNat ∧ Config.keyDownBeyond s.draws vx = true)

/-- The sprite bit that falls on pixel (r, c) of a draw of n rows at (vx, vy) from memory at I (43_display.md R232):
row and column offsets are taken modulo 32 and 64, and column offset 0 is bit 7. -/
def spriteBit (s : State) (vx vy : Byte) (n : Nat) (r : Fin 32) (c : Fin 64) : Bool :=
  let dr := (r.val + 32 - vy.toNat % 32) % 32
  let dc := (c.val + 64 - vx.toNat % 64) % 64
  decide (dr < n ∧ dc < 8) && (s.readByte (s.indexed dr)).getLsbD (7 - dc)

/-- A byte stored at an address is the high byte of the opcode fetched next, where the address is PC, and its low byte,
where the address is mask12(PC + 1) (20_memory.md R73, R83). -/
def FetchedNext (t : State) (a : Addr) (b : Nat) : Prop :=
  (a = t.pc → t.fetch.toNat / 256 = b) ∧ (a.toNat = (t.pc.toNat + 1) % 0x1000 → t.fetch.toNat % 256 = b)

/-- The k-th decimal digit of a byte, hundreds first (42_index_memory.md R203). -/
def decimalDigit (b : Byte) (k : Nat) : Nat := b.toNat / 10 ^ (2 - k) % 10

/-- The instructions that write VF as a flag (10_state.md R32). -/
def setsFlag (i : Instr) : Bool :=
  match i with
  | .addReg _ _ | .sub _ _ | .shr _ _ | .subn _ _ | .shl _ _ | .drw _ _ _ => true
  | _ => false

/-- The instruction names the register as its destination (10_state.md R31, R32). -/
def names (i : Instr) (r : Reg) : Prop :=
  match i with
  | .ldImm x _ | .addImm x _ | .rnd x _ | .ldVxDT x => r = x
  | .ldReg x _ | .orReg x _ | .andReg x _ | .xorReg x _ => r = x
  | .addReg x _ | .sub x _ | .shr x _ | .subn x _ | .shl x _ => r = x
  | .loadRegs x => r ≤ x
  | _ => False

end Sys2Proof.Claims

open Sys2Proof Sys2Proof.Machine Sys2Proof.Claims

/-! ## Reset -/

/-- 10_state.md R46: what reset leaves, for every FONT (00_scope.md R6), in a memory in canonical form; the reset state is
that of the default FONT (its bytes are log 14's). The fault register's value is decision D8's. -/
def Obligations.ResetStateHoldsResetValues : Prop :=
  (∀ font : Vector Byte 80, AtResetValues font (State.resetWith font) ∧ (State.resetWith font).mem.wf = true) ∧
  State.resetWith Config.font = State.reset ∧ AtResetValues Config.font State.reset

/-- 70_reset_and_hazards.md R340: the reset event gives the reset values for every FONT (00_scope.md R6), from any state;
as a step, from any state between events, it does so for the default FONT (log 14), opens the load phase (log 9), and
emits no output. That it may come again is decision D26; that pending events, emitted signals and the sample counter
stay is the model's choice (log 11). -/
def Obligations.ResetEventRestoresResetValues : Prop :=
  (∀ (font : Vector Byte 80) (s : State), AtResetValues font (s.resetEvent font)) ∧
  ∀ (s : State) (rest : List Event),
    Steps (withEvent s .reset rest) fun t => AtResetValues Config.font t ∧ t.loadPhase = true ∧ t.burst = none ∧
      t.outputs = s.outputs ∧ t.events = rest ∧ t.draws = s.draws

/-! ## Encoding -/

/-- 30_encoding.md R104, R105, R109 (exact literal digits are decision D9, log 15): every word either matches exactly
one row of the opcode map, and decodes to an instruction of that row, or matches none and is UNRECOGNIZED. -/
def Obligations.DecodeFollowsOpcodeMap : Prop :=
  ∀ op : Opcode,
    ((decode op).row ∈ opcodeRows ∧ (decode op).row.hits op = true ∧
      ∀ r ∈ opcodeRows, r.hits op = true → r = (decode op).row) ∨
    (decode op = .unrecognized op ∧ ∀ r ∈ opcodeRows, r.hits op = false)

/-- 30_encoding.md R105: decoding an encoded well-formed instruction gives it back, every operand at every value. -/
def Obligations.DecodeOfEncodeIsIdentity : Prop := ∀ i : Instr, i.wf = true → decode (encode i) = i

/-- 30_encoding.md R109: every word decodes to a well-formed instruction whose encoding is that word. -/
def Obligations.EncodeOfDecodeIsIdentity : Prop := ∀ op : Opcode, (decode op).wf = true ∧ encode (decode op) = op

/-- Words of spec/95_test_vectors.md, one or two a family, decode to the instructions they stand for; a sanity
statement on fixed words. -/
def Obligations.SpecWordsDecode : Prop :=
  decodeBytes [0x22, 0x10] = .ok (.call 0x210, []) ∧
  decodeBytes [0x33, 0x42] = .ok (.seImm 3 0x42, []) ∧
  decodeBytes [0x80, 0x14] = .ok (.addReg 0 1, []) ∧
  decodeBytes [0x6A, 0x7B] = .ok (.ldImm 10 0x7B, []) ∧
  decodeBytes [0xFA, 0x33] = .ok (.ldB 10, []) ∧
  decodeBytes [0xA3, 0x00] = .ok (.ldI 0x300, []) ∧
  decodeBytes [0xD0, 0x12] = .ok (.drw 0 1 2, []) ∧
  decodeBytes [0xE5, 0x9E] = .ok (.skp 5, []) ∧
  decodeBytes [0xF3, 0x0A] = .ok (.ldVxK 3, []) ∧
  decodeBytes [0x51, 0x21] = .ok (.unrecognized 0x5121, [])

/-- 60_exceptions.md R305 with 20_memory.md R73: inside a tick with steps left, neither waiting nor faulted, where the
byte at PC is op[15:8] and the byte at mask12(PC + 1) is op[7:0], the step is exec of the instruction op decodes to, the
burst having one step fewer left (the model's burst counter, log 1). -/
def Obligations.StepRunsDecodedInstruction : Prop :=
  ∀ (s : State) (k : Nat) (op : Opcode) (i : Instr),
    s.burst = some (k + 1) → s.waiting = false → s.fault = .noFault →
    (s.readByte s.pc).toNat = op.toNat / 256 →
    (s.readByte (BitVec.ofNat 12 (s.pc.toNat + 1))).toNat = op.toNat % 256 →
    decode op = i → i.wf = true →
    step s = exec i (s.setBurst (some k))

/-! ## Control flow -/

/-- 40_control_flow.md R131: 00EE pops into PC; on an empty stack it raises StackUnderflow and changes nothing else
(decisions D7 and D8, logs 4 and 15). -/
def Obligations.RetPopsOrUnderflows : Prop :=
  Encoded 0xFFFF 0x00EE (fun _ => .ret) ∧
  ∀ s : State,
    (∀ l a, s.stack = l ++ [a] → Completes .ret s fun t =>
      t.pc = a ∧ t.stack = l ∧ UnchangedExcept [.pc, .stack] s t) ∧
    (s.stack = [] → Completes .ret s fun t =>
      t.fault = .stackUnderflow ∧ t.faultCode = 2 ∧ UnchangedExcept [.fault] s t)

/-- 40_control_flow.md R132. -/
def Obligations.JpSetsPc : Prop :=
  Encoded 0xF000 0x1000 (fun op => .jp (wordNNN op)) ∧
  ∀ (s : State) (nnn : Addr), Completes (.jp nnn) s fun t => t.pc = nnn ∧ UnchangedExcept [.pc] s t

/-- 40_control_flow.md R133: 2nnn pushes mask12(PC + 2) and jumps; on a full stack it raises StackOverflow and changes
nothing else (decisions D5, D6, D8, logs 4 and 12); with no bound it always pushes. -/
def Obligations.CallPushesOrOverflows : Prop :=
  Encoded 0xF000 0x2000 (fun op => .call (wordNNN op)) ∧
  (∀ (s : State) (nnn : Addr),
    (Config.stackDepth ≠ some s.stack.length → Completes (.call nnn) s fun t =>
      t.pc = nnn ∧ t.stack = s.stack ++ [BitVec.ofNat 12 (s.pc.toNat + 2)] ∧ UnchangedExcept [.pc, .stack] s t) ∧
    (Config.stackDepth = some s.stack.length → Completes (.call nnn) s fun t =>
      t.fault = .stackOverflow ∧ t.faultCode = 1 ∧ UnchangedExcept [.fault] s t)) ∧
  (∀ (s : State) (nnn : Addr), (callWith none nnn s).fault = s.fault ∧
    (callWith none nnn s).stack = s.stack ++ [BitVec.ofNat 12 (s.pc.toNat + 2)])

/-- 40_control_flow.md R134, R135. -/
def Obligations.ImmediateSkips : Prop :=
  Encoded 0xF000 0x3000 (fun op => .seImm (wordX op) (wordKK op)) ∧
  Encoded 0xF000 0x4000 (fun op => .sneImm (wordX op) (wordKK op)) ∧
  ∀ (s : State) (x : Reg) (kk : Byte),
    (Completes (.seImm x kk) s fun t => PcSkipped (s.reg x = kk) s t ∧ UnchangedExcept [.pc] s t) ∧
    (Completes (.sneImm x kk) s fun t => PcSkipped (s.reg x ≠ kk) s t ∧ UnchangedExcept [.pc] s t)

/-- 40_control_flow.md R136, R137; that 5xyN and 9xyN with N other than 0 are unrecognized is decision D9 (log 15). -/
def Obligations.RegisterSkips : Prop :=
  Encoded 0xF00F 0x5000 (fun op => .seReg (wordX op) (wordY op)) ∧
  Encoded 0xF00F 0x9000 (fun op => .sneReg (wordX op) (wordY op)) ∧
  (∀ op : Opcode, (op &&& 0xF000 = 0x5000 ∨ op &&& 0xF000 = 0x9000) → op &&& 0x000F ≠ 0 →
    decode op = .unrecognized op) ∧
  ∀ (s : State) (x y : Reg),
    (Completes (.seReg x y) s fun t => PcSkipped (s.reg x = s.reg y) s t ∧ UnchangedExcept [.pc] s t) ∧
    (Completes (.sneReg x y) s fun t => PcSkipped (s.reg x ≠ s.reg y) s t ∧ UnchangedExcept [.pc] s t)

/-- 40_control_flow.md R138. -/
def Obligations.IndexedJumpAddsV0 : Prop :=
  Encoded 0xF000 0xB000 (fun op => .jpV0 (wordNNN op)) ∧
  ∀ (s : State) (nnn : Addr), Completes (.jpV0 nnn) s fun t =>
    t.pc.toNat = ((s.reg 0).toNat + nnn.toNat) % 0x1000 ∧ UnchangedExcept [.pc] s t

/-- 40_control_flow.md R133, "restores PC to exactly the instruction after the original call": a call that completes,
then a return from any state with the stack it left, comes back to PC + 2 with the stack as before. -/
def Obligations.ReturnComesBackAfterCall : Prop :=
  ∀ (s u : State) (nnn : Addr),
    Config.stackDepth ≠ some s.stack.length →
    Completes (.call nnn) s fun t =>
      (u.stack = t.stack → Completes .ret u fun w => PcAdvanced s w ∧ w.stack = s.stack ∧ w.fault = u.fault)

/-! ## Register loads, arithmetic and random -/

/-- 41_alu.md R161. -/
def Obligations.LoadImmediate : Prop :=
  Encoded 0xF000 0x6000 (fun op => .ldImm (wordX op) (wordKK op)) ∧
  ∀ (s : State) (x : Reg) (kk : Byte), Completes (.ldImm x kk) s fun t =>
    t.reg x = kk ∧ PcAdvanced s t ∧ UnchangedExcept [.pc, .reg x] s t

/-- 41_alu.md R162. -/
def Obligations.AddImmediateWrapsWithoutFlag : Prop :=
  Encoded 0xF000 0x7000 (fun op => .addImm (wordX op) (wordKK op)) ∧
  ∀ (s : State) (x : Reg) (kk : Byte), Completes (.addImm x kk) s fun t =>
    (t.reg x).toNat = ((s.reg x).toNat + kk.toNat) % 0x100 ∧ PcAdvanced s t ∧ UnchangedExcept [.pc, .reg x] s t

/-- 41_alu.md R163. -/
def Obligations.LoadRegisterCopies : Prop :=
  Encoded 0xF00F 0x8000 (fun op => .ldReg (wordX op) (wordY op)) ∧
  ∀ (s : State) (x y : Reg), Completes (.ldReg x y) s fun t =>
    t.reg x = s.reg y ∧ PcAdvanced s t ∧ UnchangedExcept [.pc, .reg x] s t

/-- 41_alu.md R164, R165, R166: the three logical forms, bit by bit; that VF is not written as a flag is decision D12
(log 15). -/
def Obligations.LogicalFormsLeaveVF : Prop :=
  Encoded 0xF00F 0x8001 (fun op => .orReg (wordX op) (wordY op)) ∧
  Encoded 0xF00F 0x8002 (fun op => .andReg (wordX op) (wordY op)) ∧
  Encoded 0xF00F 0x8003 (fun op => .xorReg (wordX op) (wordY op)) ∧
  ∀ (s : State) (x y : Reg),
    (Completes (.orReg x y) s fun t =>
      (∀ b, (t.reg x).getLsbD b = ((s.reg x).getLsbD b || (s.reg y).getLsbD b)) ∧ PcAdvanced s t ∧
        UnchangedExcept [.pc, .reg x] s t) ∧
    (Completes (.andReg x y) s fun t =>
      (∀ b, (t.reg x).getLsbD b = ((s.reg x).getLsbD b && (s.reg y).getLsbD b)) ∧ PcAdvanced s t ∧
        UnchangedExcept [.pc, .reg x] s t) ∧
    (Completes (.xorReg x y) s fun t =>
      (∀ b, (t.reg x).getLsbD b = ((s.reg x).getLsbD b ^^ (s.reg y).getLsbD b)) ∧ PcAdvanced s t ∧
        UnchangedExcept [.pc, .reg x] s t)

/-- 41_alu.md R167: ADD with carry; that VF ends as the flag when x = F is decision D14 (log 15). -/
def Obligations.AddSetsCarry : Prop :=
  Encoded 0xF00F 0x8004 (fun op => .addReg (wordX op) (wordY op)) ∧
  ∀ (s : State) (x y : Reg), Completes (.addReg x y) s fun t =>
    (x ≠ 15 → (t.reg x).toNat = ((s.reg x).toNat + (s.reg y).toNat) % 0x100) ∧
    t.reg 15 = (if (s.reg x).toNat + (s.reg y).toNat > 0xFF then 1 else 0) ∧
    PcAdvanced s t ∧ UnchangedExcept [.pc, .reg x, .reg 15] s t

/-- 41_alu.md R168, R170: SUB and SUBN, VF = 1 iff the minuend is strictly greater (SUBN at equality is decision D15,
x = F is decision D14, log 15). -/
def Obligations.SubtractionsSetNotBorrow : Prop :=
  Encoded 0xF00F 0x8005 (fun op => .sub (wordX op) (wordY op)) ∧
  Encoded 0xF00F 0x8007 (fun op => .subn (wordX op) (wordY op)) ∧
  ∀ (s : State) (x y : Reg),
    (Completes (.sub x y) s fun t =>
      (x ≠ 15 → (t.reg x).toNat = ((s.reg x).toNat + 0x100 - (s.reg y).toNat) % 0x100) ∧
      t.reg 15 = (if (s.reg x).toNat > (s.reg y).toNat then 1 else 0) ∧
      PcAdvanced s t ∧ UnchangedExcept [.pc, .reg x, .reg 15] s t) ∧
    (Completes (.subn x y) s fun t =>
      (x ≠ 15 → (t.reg x).toNat = ((s.reg y).toNat + 0x100 - (s.reg x).toNat) % 0x100) ∧
      t.reg 15 = (if (s.reg y).toNat > (s.reg x).toNat then 1 else 0) ∧
      PcAdvanced s t ∧ UnchangedExcept [.pc, .reg x, .reg 15] s t)

/-- 41_alu.md R169, R171: shifts of Vx by one with the bit shifted out in VF, y ignored (decisions D11 and D14,
log 15). -/
def Obligations.ShiftsPutBitShiftedOutInVF : Prop :=
  Encoded 0xF00F 0x8006 (fun op => .shr (wordX op) (wordY op)) ∧
  Encoded 0xF00F 0x800E (fun op => .shl (wordX op) (wordY op)) ∧
  ∀ (s : State) (x y : Reg),
    (Completes (.shr x y) s fun t =>
      (x ≠ 15 → (t.reg x).toNat = (s.reg x).toNat / 2) ∧ (t.reg 15).toNat = (s.reg x).toNat % 2 ∧
      PcAdvanced s t ∧ UnchangedExcept [.pc, .reg x, .reg 15] s t) ∧
    (Completes (.shl x y) s fun t =>
      (x ≠ 15 → (t.reg x).toNat = (s.reg x).toNat * 2 % 0x100) ∧ (t.reg 15).toNat = (s.reg x).toNat / 0x80 ∧
      PcAdvanced s t ∧ UnchangedExcept [.pc, .reg x, .reg 15] s t)

/-- 41_alu.md R172: the sampled byte AND kk, whatever the byte is (a free value, decision D22, log 5); bits where kk is
0 are 0; one sample is taken. -/
def Obligations.RandomIsMaskedSample : Prop :=
  Encoded 0xF000 0xC000 (fun op => .rnd (wordX op) (wordKK op)) ∧
  ∀ (s : State) (x : Reg) (kk : Byte), Completes (.rnd x kk) s fun t =>
    (∀ b, (t.reg x).getLsbD b = ((Config.rand8 s.draws).getLsbD b && kk.getLsbD b)) ∧
    (kk = 0 → t.reg x = 0) ∧ t.draws = s.draws + 1 ∧ PcAdvanced s t ∧ UnchangedExcept [.pc, .reg x, .draws] s t

/-! ## Index register and memory -/

/-- 42_index_memory.md R200. -/
def Obligations.LoadIndex : Prop :=
  Encoded 0xF000 0xA000 (fun op => .ldI (wordNNN op)) ∧
  ∀ (s : State) (nnn : Addr), Completes (.ldI nnn) s fun t =>
    t.i = nnn ∧ PcAdvanced s t ∧ UnchangedExcept [.pc, .index] s t

/-- 42_index_memory.md R201: no register changes, VF among them (decision D13, log 15). -/
def Obligations.AddIndexWrapsWithoutFlag : Prop :=
  Encoded 0xF0FF 0xF01E (fun op => .addI (wordX op)) ∧
  ∀ (s : State) (x : Reg), Completes (.addI x) s fun t =>
    t.i.toNat = (s.i.toNat + (s.reg x).toNat) % 0x1000 ∧ PcAdvanced s t ∧ UnchangedExcept [.pc, .index] s t

/-- 42_index_memory.md R202. -/
def Obligations.GlyphAddressIsFiveTimesVx : Prop :=
  Encoded 0xF0FF 0xF029 (fun op => .ldF (wordX op)) ∧
  ∀ (s : State) (x : Reg), Completes (.ldF x) s fun t =>
    t.i.toNat = (s.reg x).toNat * 5 ∧ PcAdvanced s t ∧ UnchangedExcept [.pc, .index] s t

/-- 42_index_memory.md R203, in any memory in canonical form: the three digits at I, I + 1, I + 2, addresses wrapping,
and no other byte. -/
def Obligations.DecimalDigitsStored : Prop :=
  Encoded 0xF0FF 0xF033 (fun op => .ldB (wordX op)) ∧
  ∀ (s : State) (x : Reg), s.mem.wf = true → Completes (.ldB x) s fun t =>
    (t.readByte (s.indexed 0)).toNat = (s.reg x).toNat / 100 ∧
    (t.readByte (s.indexed 1)).toNat = (s.reg x).toNat / 10 % 10 ∧
    (t.readByte (s.indexed 2)).toNat = (s.reg x).toNat % 10 ∧
    (∀ k, (s.indexed k).toNat = (s.i.toNat + k) % 0x1000) ∧
    PcAdvanced s t ∧ UnchangedExcept [.pc, .byte (s.indexed 0), .byte (s.indexed 1), .byte (s.indexed 2)] s t

/-- 42_index_memory.md R204, in any memory in canonical form: V0..Vx at I, I + 1, ..., addresses wrapping, and no other
byte; that I is unchanged is decision D16 (log 15). -/
def Obligations.RegistersStored : Prop :=
  Encoded 0xF0FF 0xF055 (fun op => .storeRegs (wordX op)) ∧
  ∀ (s : State) (x : Reg), s.mem.wf = true → Completes (.storeRegs x) s fun t =>
    (∀ r : Reg, r ≤ x → t.readByte (s.indexed r.val) = s.reg r) ∧
    (∀ k, (s.indexed k).toNat = (s.i.toNat + k) % 0x1000) ∧
    PcAdvanced s t ∧
    UnchangedExcept (.pc :: (List.range (x.val + 1)).map fun k => .byte (s.indexed k)) s t

/-- 42_index_memory.md R205: V0..Vx from I, I + 1, ..., addresses wrapping; that I is unchanged is decision D16
(log 15). -/
def Obligations.RegistersLoaded : Prop :=
  Encoded 0xF0FF 0xF065 (fun op => .loadRegs (wordX op)) ∧
  ∀ (s : State) (x : Reg), Completes (.loadRegs x) s fun t =>
    (∀ r : Reg, r ≤ x → t.reg r = s.readByte (BitVec.ofNat 12 (s.i.toNat + r.val))) ∧
    PcAdvanced s t ∧
    UnchangedExcept (.pc :: (List.range (x.val + 1)).map fun k => .reg (Fin.ofNat 16 k)) s t

/-- 20_memory.md R83: a byte that Fx33 or Fx55 stores where the next instruction is fetched is the byte of that fetch,
high or low, with nothing in between; in any memory in canonical form. -/
def Obligations.StoredByteIsNextFetched : Prop :=
  (∀ (s : State) (x : Reg) (k : Nat), s.mem.wf = true → k < 3 → Completes (.ldB x) s fun t =>
    FetchedNext t (s.indexed k) (decimalDigit (s.reg x) k)) ∧
  ∀ (s : State) (x r : Reg), s.mem.wf = true → r ≤ x → Completes (.storeRegs x) s fun t =>
    FetchedNext t (s.indexed r.val) (s.reg r).toNat

/-! ## Display -/

/-- 43_display.md R231. -/
def Obligations.ClearBlanksDisplay : Prop :=
  Encoded 0xFFFF 0x00E0 (fun _ => .cls) ∧
  ∀ s : State, Completes .cls s fun t =>
    (∀ r c, t.pixel r c = false) ∧ PcAdvanced s t ∧ UnchangedExcept [.pc, .display] s t

/-- 43_display.md R232, R233: after the draw a pixel is inverted exactly where a 1 bit of the sprite falls on it, and
VF is 1 exactly where some such pixel was true; the coordinates are the old Vx and Vy, and n = 0 draws nothing (decisions
D17 and D18, log 15). -/
def Obligations.DrawXorsSpriteAndSetsCollision : Prop :=
  Encoded 0xF000 0xD000 (fun op => .drw (wordX op) (wordY op) (wordN op)) ∧
  ∀ (s : State) (x y : Reg) (n : Fin 16), Completes (.drw x y n) s fun t =>
    (∀ r c, t.pixel r c = (s.pixel r c ^^ spriteBit s (s.reg x) (s.reg y) n.val r c)) ∧
    ((∃ r c, s.pixel r c = true ∧ spriteBit s (s.reg x) (s.reg y) n.val r c = true) → t.reg 15 = 1) ∧
    ((¬ ∃ r c, s.pixel r c = true ∧ spriteBit s (s.reg x) (s.reg y) n.val r c = true) → t.reg 15 = 0) ∧
    PcAdvanced s t ∧ UnchangedExcept [.pc, .display, .reg 15] s t

/-- 43_display.md R232 (f) with the pseudocode of R232: the same sprite drawn twice at the same place restores the
framebuffer. The second draw collides exactly where the first one lit a pixel; so where the first draw met no set pixel,
as in the source's own example, it collides if the sprite has a 1 bit (R232 (f) read so, DEDUCED, log 17). VF as a
coordinate is changed by the first draw, so x and y are not F. Bit order is decision D17 (log 15). -/
def Obligations.DrawTwiceRestoresDisplay : Prop :=
  ∀ (s : State) (x y : Reg) (n : Fin 16), x ≠ 15 → y ≠ 15 → Completes (.drw x y n) s fun t =>
    Completes (.drw x y n) t fun u => u.fb = s.fb ∧
      ((∃ r c, s.pixel r c = false ∧ spriteBit s (s.reg x) (s.reg y) n.val r c = true) → u.reg 15 = 1) ∧
      ((¬ ∃ r c, s.pixel r c = false ∧ spriteBit s (s.reg x) (s.reg y) n.val r c = true) → u.reg 15 = 0) ∧
      (t.reg 15 = 0 → (∃ r, r < n.val ∧ s.readByte (s.indexed r) ≠ 0) → u.reg 15 = 1)

/-! ## Timers and keypad -/

/-- 44_timers_keypad.md R260, R261, R262: the skips on one sample of the key input, whatever it is (free values,
decision D30, log 6). -/
def Obligations.KeySkipsFollowSample : Prop :=
  Encoded 0xF0FF 0xE09E (fun op => .skp (wordX op)) ∧
  Encoded 0xF0FF 0xE0A1 (fun op => .sknp (wordX op)) ∧
  ∀ (s : State) (x : Reg),
    (Completes (.skp x) s fun t => PcSkipped (KeyIsDown s (s.reg x)) s t ∧ t.draws = s.draws + 1 ∧
      UnchangedExcept [.pc, .draws] s t) ∧
    (Completes (.sknp x) s fun t => PcSkipped (¬ KeyIsDown s (s.reg x)) s t ∧ t.draws = s.draws + 1 ∧
      UnchangedExcept [.pc, .draws] s t)

/-- 44_timers_keypad.md R263; and no step but an Fx15 changes DT, so the steps of one burst read the same DT. -/
def Obligations.DelayTimerRead : Prop :=
  Encoded 0xF0FF 0xF007 (fun op => .ldVxDT (wordX op)) ∧
  (∀ (s : State) (x : Reg), Completes (.ldVxDT x) s fun t =>
    t.reg x = s.dt ∧ PcAdvanced s t ∧ UnchangedExcept [.pc, .reg x] s t) ∧
  ∀ (i : Instr) (s : State), (∀ x, i ≠ .ldDTVx x) → Completes i s fun t => t.dt = s.dt

/-- 44_timers_keypad.md R265. -/
def Obligations.DelayTimerWritten : Prop :=
  Encoded 0xF0FF 0xF015 (fun op => .ldDTVx (wordX op)) ∧
  ∀ (s : State) (x : Reg), Completes (.ldDTVx x) s fun t =>
    t.dt = s.reg x ∧ PcAdvanced s t ∧ UnchangedExcept [.pc, .dt] s t

/-- 44_timers_keypad.md R266: ST takes Vx and no signal is emitted; a later tick decides the tone
(`TickCountsTimersAndSignalsTone`). -/
def Obligations.SoundTimerWrittenSilently : Prop :=
  Encoded 0xF0FF 0xF018 (fun op => .ldSTVx (wordX op)) ∧
  ∀ (s : State) (x : Reg), Completes (.ldSTVx x) s fun t =>
    t.st = s.reg x ∧ t.outputs = s.outputs ∧ PcAdvanced s t ∧ UnchangedExcept [.pc, .st] s t

/-- 44_timers_keypad.md R264: Fx0A sets the waiting flag and nothing else, PC and Vx kept. -/
def Obligations.KeyWaitEntered : Prop :=
  Encoded 0xF0FF 0xF00A (fun op => .ldVxK (wordX op)) ∧
  ∀ (s : State) (x : Reg), Completes (.ldVxK x) s fun t => t.waiting = true ∧ UnchangedExcept [.waiting] s t

/-! ## Unrecognized words -/

/-- 30_encoding.md R107: a word that matches no row is a no-op that advances PC by 2; the word 0x0000 is one. Exact
matching is decision D9 (log 15). -/
def Obligations.UnrecognizedWordsAreNoOps : Prop :=
  (∀ op : Opcode, (∀ r ∈ opcodeRows, r.hits op = false) → decode op = .unrecognized op) ∧
  decode 0x0000 = .unrecognized 0x0000 ∧
  ∀ (s : State) (op : Opcode), Completes (.unrecognized op) s fun t => PcAdvanced s t ∧ UnchangedExcept [.pc] s t

/-! ## Events and the scheduler -/

/-- 60_exceptions.md R302, R303: a tick's countdown and tone, before any of its steps. The tick opens a burst of
`Config.stepsPerTick` steps (log 13) and closes the load phase (log 9). -/
def Obligations.TickCountsTimersAndSignalsTone : Prop :=
  ∀ (s : State) (rest : List Event),
    Steps (withEvent s .tick rest) fun t =>
      t.dt.toNat = s.dt.toNat - 1 ∧ t.st.toNat = s.st.toNat - 1 ∧
      (s.st.toNat = 1 → t.outputs = s.outputs ++ [.toneStop]) ∧
      (s.st.toNat ≥ 2 → t.outputs = s.outputs ++ [.toneStart]) ∧
      (s.st.toNat = 0 → t.outputs = s.outputs) ∧
      t.burst = some Config.stepsPerTick ∧ t.events = rest ∧ t.loadPhase = false ∧
      UnchangedExcept [.dt, .st, .outputs, .burst, .events, .loadPhase] s t

/-- 60_exceptions.md R301, R304, R309, 44_timers_keypad.md R270: inside a tick, when the burst is used up or the block
waits or is faulted, no instruction runs; the tick ends with one redraw of the framebuffer (the split of a tick into
steps is the model's, log 1). -/
def Obligations.TickEndsWithRedraw : Prop :=
  ∀ (s : State) (k : Nat), s.burst = some k → (k = 0 ∨ s.waiting = true ∨ s.fault ≠ .noFault) →
    Steps s fun t => t.burst = none ∧ t.outputs = s.outputs ++ [.redraw s.fb] ∧ UnchangedExcept [.burst, .outputs] s t

/-- 60_exceptions.md R306: a repaint emits one redraw and changes nothing else (decision D31), but that the load phase
is over (log 9). -/
def Obligations.RepaintOnlyRedraws : Prop :=
  ∀ (s : State) (rest : List Event),
    Steps (withEvent s .repaint rest) fun t =>
      t.outputs = s.outputs ++ [.redraw s.fb] ∧ t.events = rest ∧ t.loadPhase = false ∧
      UnchangedExcept [.outputs, .events, .loadPhase] (s.setBurst none) t

/-- 44_timers_keypad.md R267, R268: a release while waiting writes the key into the register the byte at PC names,
clears the wait and advances PC; otherwise nothing but the load phase changes (decisions D23 and D27, log 9). -/
def Obligations.KeyReleaseResolvesWait : Prop :=
  ∀ (s : State) (k : Key) (rest : List Event),
    Steps (withEvent s (.keyRelease k) rest) fun t =>
      t.events = rest ∧ t.loadPhase = false ∧
      (s.waiting = true →
        (t.reg (Fin.ofNat 16 (s.readByte s.pc).toNat)).toNat = k.toNat ∧ t.waiting = false ∧ PcAdvanced s t ∧
        UnchangedExcept [.reg (Fin.ofNat 16 (s.readByte s.pc).toNat), .waiting, .pc, .events, .loadPhase]
          (s.setBurst none) t) ∧
      (s.waiting = false → UnchangedExcept [.events, .loadPhase] (s.setBurst none) t)

/-- 44_timers_keypad.md R264, R267, R270 with 60_exceptions.md R302: an Fx0A inside a tick, m more ticks, then a release
of key k. The run ends with k in Vx, PC past the Fx0A and both timers counted down by m; every other register, memory, I,
the stack and the framebuffer have survived. The number of steps is the model's (log 1). -/
def Obligations.KeyWaitRoundTrip : Prop :=
  ∀ (s : State) (b m : Nat) (x : Reg) (k : Key),
    s.burst = some (b + 1) → s.waiting = false → s.fault = .noFault → s.loadPhase = false →
    s.current = .ldVxK x → s.events = List.replicate m .tick ++ [.keyRelease k] →
    ∃ t, Host.Core.run Sys2Proof.core (2 * m + 3) s = .next t ∧
      (t.reg x).toNat = k.toNat ∧ t.waiting = false ∧ PcAdvanced s t ∧
      t.dt.toNat = s.dt.toNat - m ∧ t.st.toNat = s.st.toNat - m ∧ t.events = [] ∧ t.burst = none ∧
      UnchangedExcept [.reg x, .pc, .dt, .st, .outputs, .events, .burst] s t

/-- 20_memory.md R86: a load-port write stores its byte while the load phase lasts and has no effect after it (decision
D32, logs 9 and 10). -/
def Obligations.LoadPortWritesInLoadPhaseOnly : Prop :=
  ∀ (s : State) (a : Addr) (b : Byte) (rest : List Event), s.mem.wf = true →
    Steps (withEvent s (.load a b) rest) fun t =>
      t.events = rest ∧
      (s.loadPhase = true → t.readByte a = b ∧ UnchangedExcept [.byte a, .events] (s.setBurst none) t) ∧
      (s.loadPhase = false → UnchangedExcept [.events] (s.setBurst none) t)

/-- 20_memory.md R86: loading an image of any length in the load phase puts its bytes at 0x200 on, drops those beyond
0xE00, and leaves every other byte as it was. One step a byte is the model's (log 1). -/
def Obligations.LoadedImageStandsAt200 : Prop :=
  ∀ (s : State) (image : List Byte) (rest : List Event),
    s.mem.wf = true → s.loadPhase = true → s.burst = none → s.events = loadImage image ++ rest →
    ∃ t, Host.Core.run Sys2Proof.core (min image.length 0xE00) s = .next t ∧ t.events = rest ∧
      (∀ j (h : j < image.length), j < 0xE00 → t.readByte (BitVec.ofNat 12 (0x200 + j)) = image[j]) ∧
      (∀ a : Addr, a.toNat < 0x200 ∨ 0x200 + image.length ≤ a.toNat → t.readByte a = s.readByte a) ∧
      (∀ p : Part, (∀ a, p ≠ .byte a) → p ≠ .events → p.same s t)

/-- 60_exceptions.md R300, R301, R304, R305: the steps of the machine make up each event as the one indivisible
transition the spec writes: from a state between events with event e next, some number of steps, at most N + 2, ends
between events in exactly the state `State.wholeEvent` gives, the later events untouched. The split is the model's
(log 1). -/
def Obligations.StepsMakeWholeEvents : Prop :=
  ∀ (s : State) (e : Event) (rest : List Event),
    ∃ n t, n ≤ Config.stepsPerTick + 2 ∧
      Host.Core.run Sys2Proof.core n (withEvent s e rest) = .next t ∧
      State.wholeEvent e ((s.setBurst none).setEvents rest) = .next t ∧ t.burst = none ∧ t.events = rest

/-- 60_exceptions.md R300: no event is looked at inside a tick, and the load port stays as it is. -/
def Obligations.NoEventInsideTick : Prop :=
  ∀ (s t : State) (k : Nat), s.burst = some k → step s = .next t →
    t.events = s.events ∧ t.loadPhase = s.loadPhase ∧ (t.burst = none ∨ ∃ j, k = j + 1 ∧ t.burst = some j)

/-- 60_exceptions.md R305, R309: no step is refused, and a step ends in a fault exactly when the block is faulted,
between events, with no event left: a faulted block is never a normal final state (the form is the model's, log 3). -/
def Obligations.StepFaultsOnlyAtRestWhenFaulted : Prop :=
  ∀ s : State,
    (∀ r, step s ≠ .refused r) ∧
    (∀ f, step s = .fault f ↔ s.burst = none ∧ s.events = [] ∧
      ((s.fault = .stackOverflow ∧ f = .stackOverflow) ∨ (s.fault = .stackUnderflow ∧ f = .stackUnderflow)))

/-- 60_exceptions.md R309: while faulted, in a sound state, a step other than a reset event changes nothing but the
timers, the signals, the burst counter and the pending events; the fault register keeps its code, and ticks and repaints
go on (decision D8, log 4). -/
def Obligations.FaultedBlockOnlyCountsAndRedraws : Prop :=
  ∀ s t : State, s.Sound → s.fault ≠ .noFault → step s = .next t →
    (s.burst = none ∧ ∃ rest, s.events = .reset :: rest) ∨
    (t.fault = s.fault ∧ UnchangedExcept [.dt, .st, .outputs, .burst, .events] s t)

/-- 44_timers_keypad.md R270: while waiting, in a sound state, a step other than a key release or a reset event changes
nothing but the timers, the signals, the burst counter and the pending events. -/
def Obligations.WaitingBlockOnlyCountsAndRedraws : Prop :=
  ∀ s t : State, s.Sound → s.waiting = true → step s = .next t →
    (s.burst = none ∧ ∃ rest, s.events = .reset :: rest ∨ ∃ k, s.events = .keyRelease k :: rest) ∨
    (t.waiting = true ∧ UnchangedExcept [.dt, .st, .outputs, .burst, .events] s t)

/-! ## Invariants and whole-machine rules -/

/-- 10_state.md R47, 20_memory.md R86 and the canonical form of memory: the invariant holds at reset. -/
def Obligations.ResetStateIsSound : Prop := State.reset.Sound

/-- 10_state.md R47 (b), (c), (d), 20_memory.md R86 and the canonical form of memory: every step keeps the invariant,
from every state that has it. -/
def Obligations.StepKeepsSound : Prop := ∀ s t : State, s.Sound → step s = .next t → t.Sound

/-- 20_memory.md R70: every step keeps memory in its canonical form (sorted, inside the address space, no redundant
entry), from every state that has it. -/
def Obligations.StepKeepsMemoryCanonical : Prop :=
  ∀ s t : State, s.mem.wf = true → step s = .next t → t.mem.wf = true

/-- 20_memory.md R70: the canonical form makes equal memories equal data: two memories in it that read the same at every
address are the same list. -/
def Obligations.CanonicalMemoryIsDeterminedByItsBytes : Prop :=
  ∀ m n : Memory, m.wf = true → n.wf = true → (∀ a : Addr, m.read a.toNat = n.read a.toNat) → m = n

/-- 43_display.md R236: in a step only 00E0 and Dxyn write the framebuffer, and of the events only reset does (R340);
a step's effect outside the framebuffer and the emitted signals does not depend on the framebuffer, but for VF after a
Dxyn. -/
def Obligations.DisplayFlowsOnlyIntoCollisionFlag : Prop :=
  (∀ s t : State, step s = .next t → t.fb ≠ s.fb →
    ((∃ k, s.burst = some (k + 1)) ∧ (s.current = .cls ∨ ∃ x y n, s.current = .drw x y n)) ∨
    (s.burst = none ∧ ∃ rest, s.events = .reset :: rest)) ∧
  ∀ (s t : State) (f : Framebuffer), step s = .next t →
    Steps (s.setFb f) fun u =>
      UnchangedExcept [.display, .outputs, .reg 15] t u ∧
      (u.reg 15 ≠ t.reg 15 → ∃ x y n, s.current = .drw x y n)

/-- 60_exceptions.md R302, R314: an instruction other than Fx07 has the same effect whatever DT holds, and every
instruction has the same effect whatever ST holds: DT is seen only through Fx07, and ST is never read. -/
def Obligations.TimersAreSeenOnlyThroughFx07 : Prop :=
  (∀ (i : Instr) (s : State) (d : Byte), (∀ x, i ≠ .ldVxDT x) →
    Completes i s fun t => Completes i (s.setDt d) fun u => UnchangedExcept [.dt] t u) ∧
  (∀ (i : Instr) (s : State) (d : Byte),
    Completes i s fun t => Completes i (s.setSt d) fun u => UnchangedExcept [.st] t u)

/-- 10_state.md R32: an instruction changes VF only if it is one of the six that write it as a flag or names it as its
destination (decisions D12 and D14, log 15); R31: any other register only if it names it. -/
def Obligations.RegistersHaveTheirWriters : Prop :=
  ∀ (i : Instr) (s t : State) (r : Reg), exec i s = .next t → t.reg r ≠ s.reg r →
    names i r ∨ (r = 15 ∧ setsFlag i = true)

/-- 10_state.md R30: each element but the registers and PC changes only at the instructions its row names, and no
instruction touches the host's side. -/
def Obligations.ElementsHaveTheirWriters : Prop :=
  ∀ (i : Instr) (s t : State), exec i s = .next t →
    ((∃ a, t.readByte a ≠ s.readByte a) → (∃ x, i = .ldB x) ∨ ∃ x, i = .storeRegs x) ∧
    (t.i ≠ s.i → (∃ nnn, i = .ldI nnn) ∨ (∃ x, i = .addI x) ∨ ∃ x, i = .ldF x) ∧
    (t.stack ≠ s.stack ∨ t.fault ≠ s.fault → (∃ nnn, i = .call nnn) ∨ i = .ret) ∧
    (t.dt ≠ s.dt → ∃ x, i = .ldDTVx x) ∧
    (t.st ≠ s.st → ∃ x, i = .ldSTVx x) ∧
    (t.waiting ≠ s.waiting → ∃ x, i = .ldVxK x) ∧
    (t.fb ≠ s.fb → i = .cls ∨ ∃ x y n, i = .drw x y n) ∧
    (t.draws ≠ s.draws → (∃ x kk, i = .rnd x kk) ∨ (∃ x, i = .skp x) ∨ ∃ x, i = .sknp x) ∧
    t.loadPhase = s.loadPhase ∧ t.events = s.events ∧ t.burst = s.burst ∧ t.outputs = s.outputs
end

