-- ==== Sys2Proof/Laws/Encoding.lean ====
section
/-! SUPPORT. A word as a number: what its fields and the packed words are in Nat, so that decoding and encoding are
linear arithmetic. -/

namespace Sys2Proof

theorem fieldO_toNat (op : Opcode) : (fieldO op).toNat = op.toNat / 4096 := by
  have := op.isLt
  simp only [fieldO, BitVec.extractLsb'_toNat, Nat.shiftRight_eq_div_pow]
  omega

theorem fieldX_val (op : Opcode) : (fieldX op).val = op.toNat / 256 % 16 := by
  simp [fieldX, Nat.shiftRight_eq_div_pow]

theorem fieldY_val (op : Opcode) : (fieldY op).val = op.toNat / 16 % 16 := by
  simp [fieldY, Nat.shiftRight_eq_div_pow]

theorem fieldN_val (op : Opcode) : (fieldN op).val = op.toNat % 16 := by
  simp [fieldN]

theorem fieldKK_toNat (op : Opcode) : (fieldKK op).toNat = op.toNat % 256 := by
  simp [fieldKK]

theorem fieldNNN_toNat (op : Opcode) : (fieldNNN op).toNat = op.toNat % 4096 := by
  simp [fieldNNN]

theorem append_toNat {n m : Nat} (a : BitVec n) (b : BitVec m) : (a ++ b).toNat = a.toNat * 2 ^ m + b.toNat := by
  rw [BitVec.toNat_append, Nat.shiftLeft_eq, ← Nat.shiftLeft_eq, Nat.shiftLeft_add_eq_or_of_lt b.isLt, Nat.shiftLeft_eq]

theorem opcodeOfBytes_toNat (hi lo : Byte) : (opcodeOfBytes hi lo).toNat = hi.toNat * 256 + lo.toNat :=
  append_toNat hi lo

theorem packAddr_toNat (o : BitVec 4) (nnn : Addr) : (packAddr o nnn).toNat = o.toNat * 4096 + nnn.toNat :=
  append_toNat o nnn

theorem packImm_toNat (o : BitVec 4) (x : Reg) (kk : Byte) :
    (packImm o x kk).toNat = o.toNat * 4096 + x.val * 256 + kk.toNat := by
  have h := append_toNat (o ++ BitVec.ofFin (w := 4) x) kk
  rw [append_toNat o (BitVec.ofFin (w := 4) x)] at h
  refine h.trans ?_
  simp only [BitVec.toNat_ofFin]
  omega

theorem packNibbles_toNat (o : BitVec 4) (x y n : Fin 16) :
    (packNibbles o x y n).toNat = o.toNat * 4096 + x.val * 256 + y.val * 16 + n.val := by
  have h := append_toNat (o ++ BitVec.ofFin (w := 4) x ++ BitVec.ofFin (w := 4) y) (BitVec.ofFin (w := 4) n)
  rw [append_toNat (o ++ BitVec.ofFin (w := 4) x) (BitVec.ofFin (w := 4) y), append_toNat o (BitVec.ofFin (w := 4) x)] at h
  refine h.trans ?_
  simp only [BitVec.toNat_ofFin]
  omega

/-- Masking with 0xF000 looks at the major opcode alone. -/
theorem and_F000 (op : Opcode) : (op &&& 0xF000#16).toNat = op.toNat / 4096 * 4096 := by
  have h : op.toNat &&& 0xF000 = op.toNat / 4096 * 4096 := by
    apply Nat.eq_of_testBit_eq
    intro i
    have hlt := op.isLt
    rw [Nat.testBit_and, show (0xF000 : Nat) = (2 ^ 4 - 1) * 2 ^ 12 from rfl, show (4096 : Nat) = 2 ^ 12 from rfl]
    simp only [Nat.testBit_mul_two_pow, Nat.testBit_two_pow_sub_one, Nat.testBit_div_two_pow]
    by_cases hi : 12 ≤ i
    · simp only [hi, decide_true, Bool.true_and, Nat.sub_add_cancel hi]
      by_cases h4 : i - 12 < 4
      · simp [h4]
      · have : op.toNat.testBit i = false := Nat.testBit_lt_two_pow (lt_of_lt_of_le hlt (Nat.pow_le_pow_right (by omega) (by omega : 16 ≤ i)))
        simp [this]
    · simp [hi]
  simpa using h

/-- Masking with 0xF000 and the low k bits looks at the major opcode and the low k bits. -/
theorem and_F000_or_low (n k : Nat) (hn : n < 65536) (hk : k ≤ 12) :
    n &&& (0xF000 ||| (2 ^ k - 1)) = n / 4096 * 4096 + n % 2 ^ k := by
  have h1 : n &&& 0xF000 = n / 4096 * 4096 := by
    have := and_F000 (BitVec.ofNat 16 n)
    rw [BitVec.toNat_and, BitVec.toNat_ofNat, Nat.mod_eq_of_lt hn] at this
    exact this
  rw [Nat.and_or_distrib_left, h1, Nat.and_two_pow_sub_one_eq_mod, show (4096 : Nat) = 2 ^ 12 from rfl,
    ← Nat.shiftLeft_eq, Nat.shiftLeft_add_eq_or_of_lt]
  exact lt_of_lt_of_le (Nat.mod_lt _ (Nat.two_pow_pos k)) (Nat.pow_le_pow_right (by omega) hk)

theorem and_F00F (op : Opcode) : (op &&& 0xF00F#16).toNat = op.toNat / 4096 * 4096 + op.toNat % 16 :=
  and_F000_or_low op.toNat 4 op.isLt (by omega)

theorem and_F0FF (op : Opcode) : (op &&& 0xF0FF#16).toNat = op.toNat / 4096 * 4096 + op.toNat % 256 :=
  and_F000_or_low op.toNat 8 op.isLt (by omega)

theorem and_FFFF (op : Opcode) : op &&& 0xFFFF#16 = op := BitVec.and_allOnes (x := op)

end Sys2Proof
end

