-- ==== Sys2Proof/Laws/State.lean ====
section
/-! SUPPORT. One lemma per field per update, and per observer an update leaves alone, each true by unfolding. -/

namespace Sys2Proof.Machine

variable (s : State)

@[simp] theorem State.setReg_mem (x : Reg) (b : Byte) : (s.setReg x b).mem = s.mem := rfl
@[simp] theorem State.setReg_v (x : Reg) (b : Byte) : (s.setReg x b).v = s.v.set x b := rfl
@[simp] theorem State.setReg_i (x : Reg) (b : Byte) : (s.setReg x b).i = s.i := rfl
@[simp] theorem State.setReg_pc (x : Reg) (b : Byte) : (s.setReg x b).pc = s.pc := rfl
@[simp] theorem State.setReg_stack (x : Reg) (b : Byte) : (s.setReg x b).stack = s.stack := rfl
@[simp] theorem State.setReg_dt (x : Reg) (b : Byte) : (s.setReg x b).dt = s.dt := rfl
@[simp] theorem State.setReg_st (x : Reg) (b : Byte) : (s.setReg x b).st = s.st := rfl
@[simp] theorem State.setReg_fb (x : Reg) (b : Byte) : (s.setReg x b).fb = s.fb := rfl
@[simp] theorem State.setReg_waiting (x : Reg) (b : Byte) : (s.setReg x b).waiting = s.waiting := rfl
@[simp] theorem State.setReg_fault (x : Reg) (b : Byte) : (s.setReg x b).fault = s.fault := rfl
@[simp] theorem State.setReg_loadPhase (x : Reg) (b : Byte) : (s.setReg x b).loadPhase = s.loadPhase := rfl
@[simp] theorem State.setReg_events (x : Reg) (b : Byte) : (s.setReg x b).events = s.events := rfl
@[simp] theorem State.setReg_burst (x : Reg) (b : Byte) : (s.setReg x b).burst = s.burst := rfl
@[simp] theorem State.setReg_outputs (x : Reg) (b : Byte) : (s.setReg x b).outputs = s.outputs := rfl
@[simp] theorem State.setReg_draws (x : Reg) (b : Byte) : (s.setReg x b).draws = s.draws := rfl
@[simp] theorem State.setReg_readByte (x : Reg) (b : Byte) (p : Addr) : (s.setReg x b).readByte p = s.readByte p := rfl
@[simp] theorem State.setReg_pixel (x : Reg) (b : Byte) (r : Fin 32) (c : Fin 64) : (s.setReg x b).pixel r c = s.pixel r c := rfl
@[simp] theorem State.setReg_indexed (x : Reg) (b : Byte) (k : Nat) : (s.setReg x b).indexed k = s.indexed k := rfl

@[simp] theorem State.setI_mem (a : Addr) : (s.setI a).mem = s.mem := rfl
@[simp] theorem State.setI_v (a : Addr) : (s.setI a).v = s.v := rfl
@[simp] theorem State.setI_i (a : Addr) : (s.setI a).i = a := rfl
@[simp] theorem State.setI_pc (a : Addr) : (s.setI a).pc = s.pc := rfl
@[simp] theorem State.setI_stack (a : Addr) : (s.setI a).stack = s.stack := rfl
@[simp] theorem State.setI_dt (a : Addr) : (s.setI a).dt = s.dt := rfl
@[simp] theorem State.setI_st (a : Addr) : (s.setI a).st = s.st := rfl
@[simp] theorem State.setI_fb (a : Addr) : (s.setI a).fb = s.fb := rfl
@[simp] theorem State.setI_waiting (a : Addr) : (s.setI a).waiting = s.waiting := rfl
@[simp] theorem State.setI_fault (a : Addr) : (s.setI a).fault = s.fault := rfl
@[simp] theorem State.setI_loadPhase (a : Addr) : (s.setI a).loadPhase = s.loadPhase := rfl
@[simp] theorem State.setI_events (a : Addr) : (s.setI a).events = s.events := rfl
@[simp] theorem State.setI_burst (a : Addr) : (s.setI a).burst = s.burst := rfl
@[simp] theorem State.setI_outputs (a : Addr) : (s.setI a).outputs = s.outputs := rfl
@[simp] theorem State.setI_draws (a : Addr) : (s.setI a).draws = s.draws := rfl
@[simp] theorem State.setI_reg (a : Addr) (r : Reg) : (s.setI a).reg r = s.reg r := rfl
@[simp] theorem State.setI_readByte (a : Addr) (p : Addr) : (s.setI a).readByte p = s.readByte p := rfl
@[simp] theorem State.setI_pixel (a : Addr) (r : Fin 32) (c : Fin 64) : (s.setI a).pixel r c = s.pixel r c := rfl

@[simp] theorem State.setPc_mem (a : Addr) : (s.setPc a).mem = s.mem := rfl
@[simp] theorem State.setPc_v (a : Addr) : (s.setPc a).v = s.v := rfl
@[simp] theorem State.setPc_i (a : Addr) : (s.setPc a).i = s.i := rfl
@[simp] theorem State.setPc_pc (a : Addr) : (s.setPc a).pc = a := rfl
@[simp] theorem State.setPc_stack (a : Addr) : (s.setPc a).stack = s.stack := rfl
@[simp] theorem State.setPc_dt (a : Addr) : (s.setPc a).dt = s.dt := rfl
@[simp] theorem State.setPc_st (a : Addr) : (s.setPc a).st = s.st := rfl
@[simp] theorem State.setPc_fb (a : Addr) : (s.setPc a).fb = s.fb := rfl
@[simp] theorem State.setPc_waiting (a : Addr) : (s.setPc a).waiting = s.waiting := rfl
@[simp] theorem State.setPc_fault (a : Addr) : (s.setPc a).fault = s.fault := rfl
@[simp] theorem State.setPc_loadPhase (a : Addr) : (s.setPc a).loadPhase = s.loadPhase := rfl
@[simp] theorem State.setPc_events (a : Addr) : (s.setPc a).events = s.events := rfl
@[simp] theorem State.setPc_burst (a : Addr) : (s.setPc a).burst = s.burst := rfl
@[simp] theorem State.setPc_outputs (a : Addr) : (s.setPc a).outputs = s.outputs := rfl
@[simp] theorem State.setPc_draws (a : Addr) : (s.setPc a).draws = s.draws := rfl
@[simp] theorem State.setPc_reg (a : Addr) (r : Reg) : (s.setPc a).reg r = s.reg r := rfl
@[simp] theorem State.setPc_readByte (a : Addr) (p : Addr) : (s.setPc a).readByte p = s.readByte p := rfl
@[simp] theorem State.setPc_pixel (a : Addr) (r : Fin 32) (c : Fin 64) : (s.setPc a).pixel r c = s.pixel r c := rfl
@[simp] theorem State.setPc_indexed (a : Addr) (k : Nat) : (s.setPc a).indexed k = s.indexed k := rfl

@[simp] theorem State.setDt_mem (b : Byte) : (s.setDt b).mem = s.mem := rfl
@[simp] theorem State.setDt_v (b : Byte) : (s.setDt b).v = s.v := rfl
@[simp] theorem State.setDt_i (b : Byte) : (s.setDt b).i = s.i := rfl
@[simp] theorem State.setDt_pc (b : Byte) : (s.setDt b).pc = s.pc := rfl
@[simp] theorem State.setDt_stack (b : Byte) : (s.setDt b).stack = s.stack := rfl
@[simp] theorem State.setDt_dt (b : Byte) : (s.setDt b).dt = b := rfl
@[simp] theorem State.setDt_st (b : Byte) : (s.setDt b).st = s.st := rfl
@[simp] theorem State.setDt_fb (b : Byte) : (s.setDt b).fb = s.fb := rfl
@[simp] theorem State.setDt_waiting (b : Byte) : (s.setDt b).waiting = s.waiting := rfl
@[simp] theorem State.setDt_fault (b : Byte) : (s.setDt b).fault = s.fault := rfl
@[simp] theorem State.setDt_loadPhase (b : Byte) : (s.setDt b).loadPhase = s.loadPhase := rfl
@[simp] theorem State.setDt_events (b : Byte) : (s.setDt b).events = s.events := rfl
@[simp] theorem State.setDt_burst (b : Byte) : (s.setDt b).burst = s.burst := rfl
@[simp] theorem State.setDt_outputs (b : Byte) : (s.setDt b).outputs = s.outputs := rfl
@[simp] theorem State.setDt_draws (b : Byte) : (s.setDt b).draws = s.draws := rfl
@[simp] theorem State.setDt_reg (b : Byte) (r : Reg) : (s.setDt b).reg r = s.reg r := rfl
@[simp] theorem State.setDt_readByte (b : Byte) (p : Addr) : (s.setDt b).readByte p = s.readByte p := rfl
@[simp] theorem State.setDt_pixel (b : Byte) (r : Fin 32) (c : Fin 64) : (s.setDt b).pixel r c = s.pixel r c := rfl
@[simp] theorem State.setDt_indexed (b : Byte) (k : Nat) : (s.setDt b).indexed k = s.indexed k := rfl

@[simp] theorem State.setSt_mem (b : Byte) : (s.setSt b).mem = s.mem := rfl
@[simp] theorem State.setSt_v (b : Byte) : (s.setSt b).v = s.v := rfl
@[simp] theorem State.setSt_i (b : Byte) : (s.setSt b).i = s.i := rfl
@[simp] theorem State.setSt_pc (b : Byte) : (s.setSt b).pc = s.pc := rfl
@[simp] theorem State.setSt_stack (b : Byte) : (s.setSt b).stack = s.stack := rfl
@[simp] theorem State.setSt_dt (b : Byte) : (s.setSt b).dt = s.dt := rfl
@[simp] theorem State.setSt_st (b : Byte) : (s.setSt b).st = b := rfl
@[simp] theorem State.setSt_fb (b : Byte) : (s.setSt b).fb = s.fb := rfl
@[simp] theorem State.setSt_waiting (b : Byte) : (s.setSt b).waiting = s.waiting := rfl
@[simp] theorem State.setSt_fault (b : Byte) : (s.setSt b).fault = s.fault := rfl
@[simp] theorem State.setSt_loadPhase (b : Byte) : (s.setSt b).loadPhase = s.loadPhase := rfl
@[simp] theorem State.setSt_events (b : Byte) : (s.setSt b).events = s.events := rfl
@[simp] theorem State.setSt_burst (b : Byte) : (s.setSt b).burst = s.burst := rfl
@[simp] theorem State.setSt_outputs (b : Byte) : (s.setSt b).outputs = s.outputs := rfl
@[simp] theorem State.setSt_draws (b : Byte) : (s.setSt b).draws = s.draws := rfl
@[simp] theorem State.setSt_reg (b : Byte) (r : Reg) : (s.setSt b).reg r = s.reg r := rfl
@[simp] theorem State.setSt_readByte (b : Byte) (p : Addr) : (s.setSt b).readByte p = s.readByte p := rfl
@[simp] theorem State.setSt_pixel (b : Byte) (r : Fin 32) (c : Fin 64) : (s.setSt b).pixel r c = s.pixel r c := rfl
@[simp] theorem State.setSt_indexed (b : Byte) (k : Nat) : (s.setSt b).indexed k = s.indexed k := rfl

@[simp] theorem State.setFb_mem (f : Framebuffer) : (s.setFb f).mem = s.mem := rfl
@[simp] theorem State.setFb_v (f : Framebuffer) : (s.setFb f).v = s.v := rfl
@[simp] theorem State.setFb_i (f : Framebuffer) : (s.setFb f).i = s.i := rfl
@[simp] theorem State.setFb_pc (f : Framebuffer) : (s.setFb f).pc = s.pc := rfl
@[simp] theorem State.setFb_stack (f : Framebuffer) : (s.setFb f).stack = s.stack := rfl
@[simp] theorem State.setFb_dt (f : Framebuffer) : (s.setFb f).dt = s.dt := rfl
@[simp] theorem State.setFb_st (f : Framebuffer) : (s.setFb f).st = s.st := rfl
@[simp] theorem State.setFb_fb (f : Framebuffer) : (s.setFb f).fb = f := rfl
@[simp] theorem State.setFb_waiting (f : Framebuffer) : (s.setFb f).waiting = s.waiting := rfl
@[simp] theorem State.setFb_fault (f : Framebuffer) : (s.setFb f).fault = s.fault := rfl
@[simp] theorem State.setFb_loadPhase (f : Framebuffer) : (s.setFb f).loadPhase = s.loadPhase := rfl
@[simp] theorem State.setFb_events (f : Framebuffer) : (s.setFb f).events = s.events := rfl
@[simp] theorem State.setFb_burst (f : Framebuffer) : (s.setFb f).burst = s.burst := rfl
@[simp] theorem State.setFb_outputs (f : Framebuffer) : (s.setFb f).outputs = s.outputs := rfl
@[simp] theorem State.setFb_draws (f : Framebuffer) : (s.setFb f).draws = s.draws := rfl
@[simp] theorem State.setFb_reg (f : Framebuffer) (r : Reg) : (s.setFb f).reg r = s.reg r := rfl
@[simp] theorem State.setFb_readByte (f : Framebuffer) (p : Addr) : (s.setFb f).readByte p = s.readByte p := rfl
@[simp] theorem State.setFb_indexed (f : Framebuffer) (k : Nat) : (s.setFb f).indexed k = s.indexed k := rfl

@[simp] theorem State.setWaiting_mem (b : Bool) : (s.setWaiting b).mem = s.mem := rfl
@[simp] theorem State.setWaiting_v (b : Bool) : (s.setWaiting b).v = s.v := rfl
@[simp] theorem State.setWaiting_i (b : Bool) : (s.setWaiting b).i = s.i := rfl
@[simp] theorem State.setWaiting_pc (b : Bool) : (s.setWaiting b).pc = s.pc := rfl
@[simp] theorem State.setWaiting_stack (b : Bool) : (s.setWaiting b).stack = s.stack := rfl
@[simp] theorem State.setWaiting_dt (b : Bool) : (s.setWaiting b).dt = s.dt := rfl
@[simp] theorem State.setWaiting_st (b : Bool) : (s.setWaiting b).st = s.st := rfl
@[simp] theorem State.setWaiting_fb (b : Bool) : (s.setWaiting b).fb = s.fb := rfl
@[simp] theorem State.setWaiting_waiting (b : Bool) : (s.setWaiting b).waiting = b := rfl
@[simp] theorem State.setWaiting_fault (b : Bool) : (s.setWaiting b).fault = s.fault := rfl
@[simp] theorem State.setWaiting_loadPhase (b : Bool) : (s.setWaiting b).loadPhase = s.loadPhase := rfl
@[simp] theorem State.setWaiting_events (b : Bool) : (s.setWaiting b).events = s.events := rfl
@[simp] theorem State.setWaiting_burst (b : Bool) : (s.setWaiting b).burst = s.burst := rfl
@[simp] theorem State.setWaiting_outputs (b : Bool) : (s.setWaiting b).outputs = s.outputs := rfl
@[simp] theorem State.setWaiting_draws (b : Bool) : (s.setWaiting b).draws = s.draws := rfl
@[simp] theorem State.setWaiting_reg (b : Bool) (r : Reg) : (s.setWaiting b).reg r = s.reg r := rfl
@[simp] theorem State.setWaiting_readByte (b : Bool) (p : Addr) : (s.setWaiting b).readByte p = s.readByte p := rfl
@[simp] theorem State.setWaiting_pixel (b : Bool) (r : Fin 32) (c : Fin 64) : (s.setWaiting b).pixel r c = s.pixel r c := rfl
@[simp] theorem State.setWaiting_indexed (b : Bool) (k : Nat) : (s.setWaiting b).indexed k = s.indexed k := rfl

@[simp] theorem State.setStack_mem (l : List Addr) : (s.setStack l).mem = s.mem := rfl
@[simp] theorem State.setStack_v (l : List Addr) : (s.setStack l).v = s.v := rfl
@[simp] theorem State.setStack_i (l : List Addr) : (s.setStack l).i = s.i := rfl
@[simp] theorem State.setStack_pc (l : List Addr) : (s.setStack l).pc = s.pc := rfl
@[simp] theorem State.setStack_stack (l : List Addr) : (s.setStack l).stack = l := rfl
@[simp] theorem State.setStack_dt (l : List Addr) : (s.setStack l).dt = s.dt := rfl
@[simp] theorem State.setStack_st (l : List Addr) : (s.setStack l).st = s.st := rfl
@[simp] theorem State.setStack_fb (l : List Addr) : (s.setStack l).fb = s.fb := rfl
@[simp] theorem State.setStack_waiting (l : List Addr) : (s.setStack l).waiting = s.waiting := rfl
@[simp] theorem State.setStack_fault (l : List Addr) : (s.setStack l).fault = s.fault := rfl
@[simp] theorem State.setStack_loadPhase (l : List Addr) : (s.setStack l).loadPhase = s.loadPhase := rfl
@[simp] theorem State.setStack_events (l : List Addr) : (s.setStack l).events = s.events := rfl
@[simp] theorem State.setStack_burst (l : List Addr) : (s.setStack l).burst = s.burst := rfl
@[simp] theorem State.setStack_outputs (l : List Addr) : (s.setStack l).outputs = s.outputs := rfl
@[simp] theorem State.setStack_draws (l : List Addr) : (s.setStack l).draws = s.draws := rfl
@[simp] theorem State.setStack_reg (l : List Addr) (r : Reg) : (s.setStack l).reg r = s.reg r := rfl
@[simp] theorem State.setStack_readByte (l : List Addr) (p : Addr) : (s.setStack l).readByte p = s.readByte p := rfl
@[simp] theorem State.setStack_pixel (l : List Addr) (r : Fin 32) (c : Fin 64) : (s.setStack l).pixel r c = s.pixel r c := rfl
@[simp] theorem State.setStack_indexed (l : List Addr) (k : Nat) : (s.setStack l).indexed k = s.indexed k := rfl

@[simp] theorem State.setFault_mem (f : FaultReg) : (s.setFault f).mem = s.mem := rfl
@[simp] theorem State.setFault_v (f : FaultReg) : (s.setFault f).v = s.v := rfl
@[simp] theorem State.setFault_i (f : FaultReg) : (s.setFault f).i = s.i := rfl
@[simp] theorem State.setFault_pc (f : FaultReg) : (s.setFault f).pc = s.pc := rfl
@[simp] theorem State.setFault_stack (f : FaultReg) : (s.setFault f).stack = s.stack := rfl
@[simp] theorem State.setFault_dt (f : FaultReg) : (s.setFault f).dt = s.dt := rfl
@[simp] theorem State.setFault_st (f : FaultReg) : (s.setFault f).st = s.st := rfl
@[simp] theorem State.setFault_fb (f : FaultReg) : (s.setFault f).fb = s.fb := rfl
@[simp] theorem State.setFault_waiting (f : FaultReg) : (s.setFault f).waiting = s.waiting := rfl
@[simp] theorem State.setFault_fault (f : FaultReg) : (s.setFault f).fault = f := rfl
@[simp] theorem State.setFault_loadPhase (f : FaultReg) : (s.setFault f).loadPhase = s.loadPhase := rfl
@[simp] theorem State.setFault_events (f : FaultReg) : (s.setFault f).events = s.events := rfl
@[simp] theorem State.setFault_burst (f : FaultReg) : (s.setFault f).burst = s.burst := rfl
@[simp] theorem State.setFault_outputs (f : FaultReg) : (s.setFault f).outputs = s.outputs := rfl
@[simp] theorem State.setFault_draws (f : FaultReg) : (s.setFault f).draws = s.draws := rfl
@[simp] theorem State.setFault_reg (f : FaultReg) (r : Reg) : (s.setFault f).reg r = s.reg r := rfl
@[simp] theorem State.setFault_readByte (f : FaultReg) (p : Addr) : (s.setFault f).readByte p = s.readByte p := rfl
@[simp] theorem State.setFault_pixel (f : FaultReg) (r : Fin 32) (c : Fin 64) : (s.setFault f).pixel r c = s.pixel r c := rfl
@[simp] theorem State.setFault_indexed (f : FaultReg) (k : Nat) : (s.setFault f).indexed k = s.indexed k := rfl

@[simp] theorem State.raiseFault_mem (f : FaultReg) : (s.raiseFault f).mem = s.mem := rfl
@[simp] theorem State.raiseFault_v (f : FaultReg) : (s.raiseFault f).v = s.v := rfl
@[simp] theorem State.raiseFault_i (f : FaultReg) : (s.raiseFault f).i = s.i := rfl
@[simp] theorem State.raiseFault_pc (f : FaultReg) : (s.raiseFault f).pc = s.pc := rfl
@[simp] theorem State.raiseFault_stack (f : FaultReg) : (s.raiseFault f).stack = s.stack := rfl
@[simp] theorem State.raiseFault_dt (f : FaultReg) : (s.raiseFault f).dt = s.dt := rfl
@[simp] theorem State.raiseFault_st (f : FaultReg) : (s.raiseFault f).st = s.st := rfl
@[simp] theorem State.raiseFault_fb (f : FaultReg) : (s.raiseFault f).fb = s.fb := rfl
@[simp] theorem State.raiseFault_waiting (f : FaultReg) : (s.raiseFault f).waiting = s.waiting := rfl
@[simp] theorem State.raiseFault_fault (f : FaultReg) : (s.raiseFault f).fault = f := rfl
@[simp] theorem State.raiseFault_loadPhase (f : FaultReg) : (s.raiseFault f).loadPhase = s.loadPhase := rfl
@[simp] theorem State.raiseFault_events (f : FaultReg) : (s.raiseFault f).events = s.events := rfl
@[simp] theorem State.raiseFault_burst (f : FaultReg) : (s.raiseFault f).burst = s.burst := rfl
@[simp] theorem State.raiseFault_outputs (f : FaultReg) : (s.raiseFault f).outputs = s.outputs := rfl
@[simp] theorem State.raiseFault_draws (f : FaultReg) : (s.raiseFault f).draws = s.draws := rfl
@[simp] theorem State.raiseFault_reg (f : FaultReg) (r : Reg) : (s.raiseFault f).reg r = s.reg r := rfl
@[simp] theorem State.raiseFault_readByte (f : FaultReg) (p : Addr) : (s.raiseFault f).readByte p = s.readByte p := rfl
@[simp] theorem State.raiseFault_pixel (f : FaultReg) (r : Fin 32) (c : Fin 64) : (s.raiseFault f).pixel r c = s.pixel r c := rfl
@[simp] theorem State.raiseFault_indexed (f : FaultReg) (k : Nat) : (s.raiseFault f).indexed k = s.indexed k := rfl

@[simp] theorem State.countDraw_mem : (s.countDraw).mem = s.mem := rfl
@[simp] theorem State.countDraw_v : (s.countDraw).v = s.v := rfl
@[simp] theorem State.countDraw_i : (s.countDraw).i = s.i := rfl
@[simp] theorem State.countDraw_pc : (s.countDraw).pc = s.pc := rfl
@[simp] theorem State.countDraw_stack : (s.countDraw).stack = s.stack := rfl
@[simp] theorem State.countDraw_dt : (s.countDraw).dt = s.dt := rfl
@[simp] theorem State.countDraw_st : (s.countDraw).st = s.st := rfl
@[simp] theorem State.countDraw_fb : (s.countDraw).fb = s.fb := rfl
@[simp] theorem State.countDraw_waiting : (s.countDraw).waiting = s.waiting := rfl
@[simp] theorem State.countDraw_fault : (s.countDraw).fault = s.fault := rfl
@[simp] theorem State.countDraw_loadPhase : (s.countDraw).loadPhase = s.loadPhase := rfl
@[simp] theorem State.countDraw_events : (s.countDraw).events = s.events := rfl
@[simp] theorem State.countDraw_burst : (s.countDraw).burst = s.burst := rfl
@[simp] theorem State.countDraw_outputs : (s.countDraw).outputs = s.outputs := rfl
@[simp] theorem State.countDraw_draws : (s.countDraw).draws = s.draws + 1 := rfl
@[simp] theorem State.countDraw_reg (r : Reg) : (s.countDraw).reg r = s.reg r := rfl
@[simp] theorem State.countDraw_readByte (p : Addr) : (s.countDraw).readByte p = s.readByte p := rfl
@[simp] theorem State.countDraw_pixel (r : Fin 32) (c : Fin 64) : (s.countDraw).pixel r c = s.pixel r c := rfl
@[simp] theorem State.countDraw_indexed (k : Nat) : (s.countDraw).indexed k = s.indexed k := rfl

@[simp] theorem State.advance_mem : (s.advance).mem = s.mem := rfl
@[simp] theorem State.advance_v : (s.advance).v = s.v := rfl
@[simp] theorem State.advance_i : (s.advance).i = s.i := rfl
@[simp] theorem State.advance_pc : (s.advance).pc = s.next := rfl
@[simp] theorem State.advance_stack : (s.advance).stack = s.stack := rfl
@[simp] theorem State.advance_dt : (s.advance).dt = s.dt := rfl
@[simp] theorem State.advance_st : (s.advance).st = s.st := rfl
@[simp] theorem State.advance_fb : (s.advance).fb = s.fb := rfl
@[simp] theorem State.advance_waiting : (s.advance).waiting = s.waiting := rfl
@[simp] theorem State.advance_fault : (s.advance).fault = s.fault := rfl
@[simp] theorem State.advance_loadPhase : (s.advance).loadPhase = s.loadPhase := rfl
@[simp] theorem State.advance_events : (s.advance).events = s.events := rfl
@[simp] theorem State.advance_burst : (s.advance).burst = s.burst := rfl
@[simp] theorem State.advance_outputs : (s.advance).outputs = s.outputs := rfl
@[simp] theorem State.advance_draws : (s.advance).draws = s.draws := rfl
@[simp] theorem State.advance_reg (r : Reg) : (s.advance).reg r = s.reg r := rfl
@[simp] theorem State.advance_readByte (p : Addr) : (s.advance).readByte p = s.readByte p := rfl
@[simp] theorem State.advance_pixel (r : Fin 32) (c : Fin 64) : (s.advance).pixel r c = s.pixel r c := rfl
@[simp] theorem State.advance_indexed (k : Nat) : (s.advance).indexed k = s.indexed k := rfl

@[simp] theorem State.skipIf_mem (b : Bool) : (s.skipIf b).mem = s.mem := rfl
@[simp] theorem State.skipIf_v (b : Bool) : (s.skipIf b).v = s.v := rfl
@[simp] theorem State.skipIf_i (b : Bool) : (s.skipIf b).i = s.i := rfl
@[simp] theorem State.skipIf_pc (b : Bool) : (s.skipIf b).pc = if b then s.skip else s.next := rfl
@[simp] theorem State.skipIf_stack (b : Bool) : (s.skipIf b).stack = s.stack := rfl
@[simp] theorem State.skipIf_dt (b : Bool) : (s.skipIf b).dt = s.dt := rfl
@[simp] theorem State.skipIf_st (b : Bool) : (s.skipIf b).st = s.st := rfl
@[simp] theorem State.skipIf_fb (b : Bool) : (s.skipIf b).fb = s.fb := rfl
@[simp] theorem State.skipIf_waiting (b : Bool) : (s.skipIf b).waiting = s.waiting := rfl
@[simp] theorem State.skipIf_fault (b : Bool) : (s.skipIf b).fault = s.fault := rfl
@[simp] theorem State.skipIf_loadPhase (b : Bool) : (s.skipIf b).loadPhase = s.loadPhase := rfl
@[simp] theorem State.skipIf_events (b : Bool) : (s.skipIf b).events = s.events := rfl
@[simp] theorem State.skipIf_burst (b : Bool) : (s.skipIf b).burst = s.burst := rfl
@[simp] theorem State.skipIf_outputs (b : Bool) : (s.skipIf b).outputs = s.outputs := rfl
@[simp] theorem State.skipIf_draws (b : Bool) : (s.skipIf b).draws = s.draws := rfl
@[simp] theorem State.skipIf_reg (b : Bool) (r : Reg) : (s.skipIf b).reg r = s.reg r := rfl
@[simp] theorem State.skipIf_readByte (b : Bool) (p : Addr) : (s.skipIf b).readByte p = s.readByte p := rfl
@[simp] theorem State.skipIf_pixel (b : Bool) (r : Fin 32) (c : Fin 64) : (s.skipIf b).pixel r c = s.pixel r c := rfl
@[simp] theorem State.skipIf_indexed (b : Bool) (k : Nat) : (s.skipIf b).indexed k = s.indexed k := rfl

@[simp] theorem State.writeByte_mem (a : Addr) (b : Byte) : (s.writeByte a b).mem = s.mem.write a.toNat b := rfl
@[simp] theorem State.writeByte_v (a : Addr) (b : Byte) : (s.writeByte a b).v = s.v := rfl
@[simp] theorem State.writeByte_i (a : Addr) (b : Byte) : (s.writeByte a b).i = s.i := rfl
@[simp] theorem State.writeByte_pc (a : Addr) (b : Byte) : (s.writeByte a b).pc = s.pc := rfl
@[simp] theorem State.writeByte_stack (a : Addr) (b : Byte) : (s.writeByte a b).stack = s.stack := rfl
@[simp] theorem State.writeByte_dt (a : Addr) (b : Byte) : (s.writeByte a b).dt = s.dt := rfl
@[simp] theorem State.writeByte_st (a : Addr) (b : Byte) : (s.writeByte a b).st = s.st := rfl
@[simp] theorem State.writeByte_fb (a : Addr) (b : Byte) : (s.writeByte a b).fb = s.fb := rfl
@[simp] theorem State.writeByte_waiting (a : Addr) (b : Byte) : (s.writeByte a b).waiting = s.waiting := rfl
@[simp] theorem State.writeByte_fault (a : Addr) (b : Byte) : (s.writeByte a b).fault = s.fault := rfl
@[simp] theorem State.writeByte_loadPhase (a : Addr) (b : Byte) : (s.writeByte a b).loadPhase = s.loadPhase := rfl
@[simp] theorem State.writeByte_events (a : Addr) (b : Byte) : (s.writeByte a b).events = s.events := rfl
@[simp] theorem State.writeByte_burst (a : Addr) (b : Byte) : (s.writeByte a b).burst = s.burst := rfl
@[simp] theorem State.writeByte_outputs (a : Addr) (b : Byte) : (s.writeByte a b).outputs = s.outputs := rfl
@[simp] theorem State.writeByte_draws (a : Addr) (b : Byte) : (s.writeByte a b).draws = s.draws := rfl
@[simp] theorem State.writeByte_reg (a : Addr) (b : Byte) (r : Reg) : (s.writeByte a b).reg r = s.reg r := rfl
@[simp] theorem State.writeByte_pixel (a : Addr) (b : Byte) (r : Fin 32) (c : Fin 64) : (s.writeByte a b).pixel r c = s.pixel r c := rfl
@[simp] theorem State.writeByte_indexed (a : Addr) (b : Byte) (k : Nat) : (s.writeByte a b).indexed k = s.indexed k := rfl

@[simp] theorem State.setFlag_mem (b : Bool) : (s.setFlag b).mem = s.mem := rfl
@[simp] theorem State.setFlag_v (b : Bool) : (s.setFlag b).v = s.v.set VF (flagByte b) := rfl
@[simp] theorem State.setFlag_i (b : Bool) : (s.setFlag b).i = s.i := rfl
@[simp] theorem State.setFlag_pc (b : Bool) : (s.setFlag b).pc = s.pc := rfl
@[simp] theorem State.setFlag_stack (b : Bool) : (s.setFlag b).stack = s.stack := rfl
@[simp] theorem State.setFlag_dt (b : Bool) : (s.setFlag b).dt = s.dt := rfl
@[simp] theorem State.setFlag_st (b : Bool) : (s.setFlag b).st = s.st := rfl
@[simp] theorem State.setFlag_fb (b : Bool) : (s.setFlag b).fb = s.fb := rfl
@[simp] theorem State.setFlag_waiting (b : Bool) : (s.setFlag b).waiting = s.waiting := rfl
@[simp] theorem State.setFlag_fault (b : Bool) : (s.setFlag b).fault = s.fault := rfl
@[simp] theorem State.setFlag_loadPhase (b : Bool) : (s.setFlag b).loadPhase = s.loadPhase := rfl
@[simp] theorem State.setFlag_events (b : Bool) : (s.setFlag b).events = s.events := rfl
@[simp] theorem State.setFlag_burst (b : Bool) : (s.setFlag b).burst = s.burst := rfl
@[simp] theorem State.setFlag_outputs (b : Bool) : (s.setFlag b).outputs = s.outputs := rfl
@[simp] theorem State.setFlag_draws (b : Bool) : (s.setFlag b).draws = s.draws := rfl
@[simp] theorem State.setFlag_readByte (b : Bool) (p : Addr) : (s.setFlag b).readByte p = s.readByte p := rfl
@[simp] theorem State.setFlag_pixel (b : Bool) (r : Fin 32) (c : Fin 64) : (s.setFlag b).pixel r c = s.pixel r c := rfl
@[simp] theorem State.setFlag_indexed (b : Bool) (k : Nat) : (s.setFlag b).indexed k = s.indexed k := rfl

@[simp] theorem State.setResult_mem (x : Reg) (r : Byte) (b : Bool) : (s.setResult x r b).mem = s.mem := rfl
@[simp] theorem State.setResult_v (x : Reg) (r : Byte) (b : Bool) : (s.setResult x r b).v = (s.v.set x r).set VF (flagByte b) := rfl
@[simp] theorem State.setResult_i (x : Reg) (r : Byte) (b : Bool) : (s.setResult x r b).i = s.i := rfl
@[simp] theorem State.setResult_pc (x : Reg) (r : Byte) (b : Bool) : (s.setResult x r b).pc = s.pc := rfl
@[simp] theorem State.setResult_stack (x : Reg) (r : Byte) (b : Bool) : (s.setResult x r b).stack = s.stack := rfl
@[simp] theorem State.setResult_dt (x : Reg) (r : Byte) (b : Bool) : (s.setResult x r b).dt = s.dt := rfl
@[simp] theorem State.setResult_st (x : Reg) (r : Byte) (b : Bool) : (s.setResult x r b).st = s.st := rfl
@[simp] theorem State.setResult_fb (x : Reg) (r : Byte) (b : Bool) : (s.setResult x r b).fb = s.fb := rfl
@[simp] theorem State.setResult_waiting (x : Reg) (r : Byte) (b : Bool) : (s.setResult x r b).waiting = s.waiting := rfl
@[simp] theorem State.setResult_fault (x : Reg) (r : Byte) (b : Bool) : (s.setResult x r b).fault = s.fault := rfl
@[simp] theorem State.setResult_loadPhase (x : Reg) (r : Byte) (b : Bool) : (s.setResult x r b).loadPhase = s.loadPhase := rfl
@[simp] theorem State.setResult_events (x : Reg) (r : Byte) (b : Bool) : (s.setResult x r b).events = s.events := rfl
@[simp] theorem State.setResult_burst (x : Reg) (r : Byte) (b : Bool) : (s.setResult x r b).burst = s.burst := rfl
@[simp] theorem State.setResult_outputs (x : Reg) (r : Byte) (b : Bool) : (s.setResult x r b).outputs = s.outputs := rfl
@[simp] theorem State.setResult_draws (x : Reg) (r : Byte) (b : Bool) : (s.setResult x r b).draws = s.draws := rfl
@[simp] theorem State.setResult_readByte (x : Reg) (r : Byte) (b : Bool) (p : Addr) : (s.setResult x r b).readByte p = s.readByte p := rfl
@[simp] theorem State.setResult_pixel (x : Reg) (r : Byte) (b : Bool) (row : Fin 32) (col : Fin 64) : (s.setResult x r b).pixel row col = s.pixel row col := rfl
@[simp] theorem State.setResult_indexed (x : Reg) (r : Byte) (b : Bool) (k : Nat) : (s.setResult x r b).indexed k = s.indexed k := rfl

@[simp] theorem State.emit_mem (o : Output) : (s.emit o).mem = s.mem := rfl
@[simp] theorem State.emit_v (o : Output) : (s.emit o).v = s.v := rfl
@[simp] theorem State.emit_i (o : Output) : (s.emit o).i = s.i := rfl
@[simp] theorem State.emit_pc (o : Output) : (s.emit o).pc = s.pc := rfl
@[simp] theorem State.emit_stack (o : Output) : (s.emit o).stack = s.stack := rfl
@[simp] theorem State.emit_dt (o : Output) : (s.emit o).dt = s.dt := rfl
@[simp] theorem State.emit_st (o : Output) : (s.emit o).st = s.st := rfl
@[simp] theorem State.emit_fb (o : Output) : (s.emit o).fb = s.fb := rfl
@[simp] theorem State.emit_waiting (o : Output) : (s.emit o).waiting = s.waiting := rfl
@[simp] theorem State.emit_fault (o : Output) : (s.emit o).fault = s.fault := rfl
@[simp] theorem State.emit_loadPhase (o : Output) : (s.emit o).loadPhase = s.loadPhase := rfl
@[simp] theorem State.emit_events (o : Output) : (s.emit o).events = s.events := rfl
@[simp] theorem State.emit_burst (o : Output) : (s.emit o).burst = s.burst := rfl
@[simp] theorem State.emit_outputs (o : Output) : (s.emit o).outputs = s.outputs ++ [o] := rfl
@[simp] theorem State.emit_draws (o : Output) : (s.emit o).draws = s.draws := rfl
@[simp] theorem State.emit_reg (o : Output) (r : Reg) : (s.emit o).reg r = s.reg r := rfl
@[simp] theorem State.emit_readByte (o : Output) (p : Addr) : (s.emit o).readByte p = s.readByte p := rfl
@[simp] theorem State.emit_pixel (o : Output) (r : Fin 32) (c : Fin 64) : (s.emit o).pixel r c = s.pixel r c := rfl
@[simp] theorem State.emit_indexed (o : Output) (k : Nat) : (s.emit o).indexed k = s.indexed k := rfl

@[simp] theorem State.redraw_mem : (s.redraw).mem = s.mem := rfl
@[simp] theorem State.redraw_v : (s.redraw).v = s.v := rfl
@[simp] theorem State.redraw_i : (s.redraw).i = s.i := rfl
@[simp] theorem State.redraw_pc : (s.redraw).pc = s.pc := rfl
@[simp] theorem State.redraw_stack : (s.redraw).stack = s.stack := rfl
@[simp] theorem State.redraw_dt : (s.redraw).dt = s.dt := rfl
@[simp] theorem State.redraw_st : (s.redraw).st = s.st := rfl
@[simp] theorem State.redraw_fb : (s.redraw).fb = s.fb := rfl
@[simp] theorem State.redraw_waiting : (s.redraw).waiting = s.waiting := rfl
@[simp] theorem State.redraw_fault : (s.redraw).fault = s.fault := rfl
@[simp] theorem State.redraw_loadPhase : (s.redraw).loadPhase = s.loadPhase := rfl
@[simp] theorem State.redraw_events : (s.redraw).events = s.events := rfl
@[simp] theorem State.redraw_burst : (s.redraw).burst = s.burst := rfl
@[simp] theorem State.redraw_outputs : (s.redraw).outputs = s.outputs ++ [.redraw s.fb] := rfl
@[simp] theorem State.redraw_draws : (s.redraw).draws = s.draws := rfl
@[simp] theorem State.redraw_reg (r : Reg) : (s.redraw).reg r = s.reg r := rfl
@[simp] theorem State.redraw_readByte (p : Addr) : (s.redraw).readByte p = s.readByte p := rfl
@[simp] theorem State.redraw_pixel (r : Fin 32) (c : Fin 64) : (s.redraw).pixel r c = s.pixel r c := rfl
@[simp] theorem State.redraw_indexed (k : Nat) : (s.redraw).indexed k = s.indexed k := rfl

@[simp] theorem State.closeLoad_mem : (s.closeLoad).mem = s.mem := rfl
@[simp] theorem State.closeLoad_v : (s.closeLoad).v = s.v := rfl
@[simp] theorem State.closeLoad_i : (s.closeLoad).i = s.i := rfl
@[simp] theorem State.closeLoad_pc : (s.closeLoad).pc = s.pc := rfl
@[simp] theorem State.closeLoad_stack : (s.closeLoad).stack = s.stack := rfl
@[simp] theorem State.closeLoad_dt : (s.closeLoad).dt = s.dt := rfl
@[simp] theorem State.closeLoad_st : (s.closeLoad).st = s.st := rfl
@[simp] theorem State.closeLoad_fb : (s.closeLoad).fb = s.fb := rfl
@[simp] theorem State.closeLoad_waiting : (s.closeLoad).waiting = s.waiting := rfl
@[simp] theorem State.closeLoad_fault : (s.closeLoad).fault = s.fault := rfl
@[simp] theorem State.closeLoad_loadPhase : (s.closeLoad).loadPhase = false := rfl
@[simp] theorem State.closeLoad_events : (s.closeLoad).events = s.events := rfl
@[simp] theorem State.closeLoad_burst : (s.closeLoad).burst = s.burst := rfl
@[simp] theorem State.closeLoad_outputs : (s.closeLoad).outputs = s.outputs := rfl
@[simp] theorem State.closeLoad_draws : (s.closeLoad).draws = s.draws := rfl
@[simp] theorem State.closeLoad_reg (r : Reg) : (s.closeLoad).reg r = s.reg r := rfl
@[simp] theorem State.closeLoad_readByte (p : Addr) : (s.closeLoad).readByte p = s.readByte p := rfl
@[simp] theorem State.closeLoad_pixel (r : Fin 32) (c : Fin 64) : (s.closeLoad).pixel r c = s.pixel r c := rfl
@[simp] theorem State.closeLoad_indexed (k : Nat) : (s.closeLoad).indexed k = s.indexed k := rfl

@[simp] theorem State.setBurst_mem (b : Option Nat) : (s.setBurst b).mem = s.mem := rfl
@[simp] theorem State.setBurst_v (b : Option Nat) : (s.setBurst b).v = s.v := rfl
@[simp] theorem State.setBurst_i (b : Option Nat) : (s.setBurst b).i = s.i := rfl
@[simp] theorem State.setBurst_pc (b : Option Nat) : (s.setBurst b).pc = s.pc := rfl
@[simp] theorem State.setBurst_stack (b : Option Nat) : (s.setBurst b).stack = s.stack := rfl
@[simp] theorem State.setBurst_dt (b : Option Nat) : (s.setBurst b).dt = s.dt := rfl
@[simp] theorem State.setBurst_st (b : Option Nat) : (s.setBurst b).st = s.st := rfl
@[simp] theorem State.setBurst_fb (b : Option Nat) : (s.setBurst b).fb = s.fb := rfl
@[simp] theorem State.setBurst_waiting (b : Option Nat) : (s.setBurst b).waiting = s.waiting := rfl
@[simp] theorem State.setBurst_fault (b : Option Nat) : (s.setBurst b).fault = s.fault := rfl
@[simp] theorem State.setBurst_loadPhase (b : Option Nat) : (s.setBurst b).loadPhase = s.loadPhase := rfl
@[simp] theorem State.setBurst_events (b : Option Nat) : (s.setBurst b).events = s.events := rfl
@[simp] theorem State.setBurst_burst (b : Option Nat) : (s.setBurst b).burst = b := rfl
@[simp] theorem State.setBurst_outputs (b : Option Nat) : (s.setBurst b).outputs = s.outputs := rfl
@[simp] theorem State.setBurst_draws (b : Option Nat) : (s.setBurst b).draws = s.draws := rfl
@[simp] theorem State.setBurst_reg (b : Option Nat) (r : Reg) : (s.setBurst b).reg r = s.reg r := rfl
@[simp] theorem State.setBurst_readByte (b : Option Nat) (p : Addr) : (s.setBurst b).readByte p = s.readByte p := rfl
@[simp] theorem State.setBurst_pixel (b : Option Nat) (r : Fin 32) (c : Fin 64) : (s.setBurst b).pixel r c = s.pixel r c := rfl
@[simp] theorem State.setBurst_indexed (b : Option Nat) (k : Nat) : (s.setBurst b).indexed k = s.indexed k := rfl

@[simp] theorem State.setEvents_mem (l : List Event) : (s.setEvents l).mem = s.mem := rfl
@[simp] theorem State.setEvents_v (l : List Event) : (s.setEvents l).v = s.v := rfl
@[simp] theorem State.setEvents_i (l : List Event) : (s.setEvents l).i = s.i := rfl
@[simp] theorem State.setEvents_pc (l : List Event) : (s.setEvents l).pc = s.pc := rfl
@[simp] theorem State.setEvents_stack (l : List Event) : (s.setEvents l).stack = s.stack := rfl
@[simp] theorem State.setEvents_dt (l : List Event) : (s.setEvents l).dt = s.dt := rfl
@[simp] theorem State.setEvents_st (l : List Event) : (s.setEvents l).st = s.st := rfl
@[simp] theorem State.setEvents_fb (l : List Event) : (s.setEvents l).fb = s.fb := rfl
@[simp] theorem State.setEvents_waiting (l : List Event) : (s.setEvents l).waiting = s.waiting := rfl
@[simp] theorem State.setEvents_fault (l : List Event) : (s.setEvents l).fault = s.fault := rfl
@[simp] theorem State.setEvents_loadPhase (l : List Event) : (s.setEvents l).loadPhase = s.loadPhase := rfl
@[simp] theorem State.setEvents_events (l : List Event) : (s.setEvents l).events = l := rfl
@[simp] theorem State.setEvents_burst (l : List Event) : (s.setEvents l).burst = s.burst := rfl
@[simp] theorem State.setEvents_outputs (l : List Event) : (s.setEvents l).outputs = s.outputs := rfl
@[simp] theorem State.setEvents_draws (l : List Event) : (s.setEvents l).draws = s.draws := rfl
@[simp] theorem State.setEvents_reg (l : List Event) (r : Reg) : (s.setEvents l).reg r = s.reg r := rfl
@[simp] theorem State.setEvents_readByte (l : List Event) (p : Addr) : (s.setEvents l).readByte p = s.readByte p := rfl
@[simp] theorem State.setEvents_pixel (l : List Event) (r : Fin 32) (c : Fin 64) : (s.setEvents l).pixel r c = s.pixel r c := rfl
@[simp] theorem State.setEvents_indexed (l : List Event) (k : Nat) : (s.setEvents l).indexed k = s.indexed k := rfl

@[simp] theorem State.countTimers_mem : (s.countTimers).mem = s.mem := rfl
@[simp] theorem State.countTimers_v : (s.countTimers).v = s.v := rfl
@[simp] theorem State.countTimers_i : (s.countTimers).i = s.i := rfl
@[simp] theorem State.countTimers_pc : (s.countTimers).pc = s.pc := rfl
@[simp] theorem State.countTimers_stack : (s.countTimers).stack = s.stack := rfl
@[simp] theorem State.countTimers_dt : (s.countTimers).dt = countDown s.dt := rfl
@[simp] theorem State.countTimers_st : (s.countTimers).st = countDown s.st := rfl
@[simp] theorem State.countTimers_fb : (s.countTimers).fb = s.fb := rfl
@[simp] theorem State.countTimers_waiting : (s.countTimers).waiting = s.waiting := rfl
@[simp] theorem State.countTimers_fault : (s.countTimers).fault = s.fault := rfl
@[simp] theorem State.countTimers_loadPhase : (s.countTimers).loadPhase = s.loadPhase := rfl
@[simp] theorem State.countTimers_events : (s.countTimers).events = s.events := rfl
@[simp] theorem State.countTimers_burst : (s.countTimers).burst = s.burst := rfl
@[simp] theorem State.countTimers_outputs : (s.countTimers).outputs = s.outputs ++ toneSignal s.st (countDown s.st) := rfl
@[simp] theorem State.countTimers_draws : (s.countTimers).draws = s.draws := rfl
@[simp] theorem State.countTimers_reg (r : Reg) : (s.countTimers).reg r = s.reg r := rfl
@[simp] theorem State.countTimers_readByte (p : Addr) : (s.countTimers).readByte p = s.readByte p := rfl
@[simp] theorem State.countTimers_pixel (r : Fin 32) (c : Fin 64) : (s.countTimers).pixel r c = s.pixel r c := rfl
@[simp] theorem State.countTimers_indexed (k : Nat) : (s.countTimers).indexed k = s.indexed k := rfl

end Sys2Proof.Machine
end

