-- ==== Sys2Proof/Laws/Memory.lean ====
section
/-! SUPPORT. Memory: reads after writes, and the canonical form that every memory operation keeps. -/

namespace Sys2Proof.Machine

theorem mask12_toNat (v : Nat) : (mask12 v).toNat = v % 0x1000 := by simp [mask12]

theorem Memory.read_cons (m : Memory) (a : Nat) (b : Byte) (p : Nat) (hm : m.read a = unlisted a) :
    (cons a b m).read p = if p = a then b else m.read p := by
  unfold cons
  split
  · split
    · simp_all
    · rfl
  · simp [read, eq_comm]

theorem Memory.read_of_lt {bound a : Nat} {m : Memory} (h : m.wfAbove bound = true) (ha : a < bound) :
    m.read a = unlisted a := by
  induction m generalizing bound with
  | nil => rfl
  | cons c rest ih =>
    simp only [wfAbove, Bool.and_eq_true, decide_eq_true_eq] at h
    have hne : c.1 ≠ a := by omega
    simp only [read, hne, if_false]
    exact ih h.2 (by omega)

theorem Memory.wfAbove_mono {low high : Nat} {m : Memory} (hle : low ≤ high) (h : m.wfAbove high = true) :
    m.wfAbove low = true := by
  cases m with
  | nil => rfl
  | cons c rest => simp only [wfAbove, Bool.and_eq_true, decide_eq_true_eq] at h ⊢; exact ⟨⟨⟨by omega, h.1.1.2⟩, h.1.2⟩, h.2⟩

theorem Memory.wfAbove_cons {bound a : Nat} {b : Byte} {m : Memory} (hb : bound ≤ a) (ha : a < 4096)
    (h : m.wfAbove (a + 1) = true) : (cons a b m).wfAbove bound = true := by
  unfold cons
  split
  · exact wfAbove_mono (by omega) h
  · simp_all [wfAbove]

/-- A write keeps the canonical form above any bound at or below its address. -/
theorem Memory.wfAbove_write {bound a : Nat} {b : Byte} {m : Memory} (hb : bound ≤ a) (ha : a < 4096)
    (h : m.wfAbove bound = true) : (m.write a b).wfAbove bound = true := by
  induction m generalizing bound with
  | nil => exact wfAbove_cons hb ha rfl
  | cons c rest ih =>
    simp only [wfAbove, Bool.and_eq_true, decide_eq_true_eq] at h
    simp only [write]
    split
    · refine wfAbove_cons hb ha ?_
      simp only [wfAbove, Bool.and_eq_true, decide_eq_true_eq]
      exact ⟨⟨⟨by omega, h.1.1.2⟩, h.1.2⟩, h.2⟩
    · split
      · subst_vars; exact wfAbove_cons hb ha h.2
      · simp only [wfAbove, Bool.and_eq_true, decide_eq_true_eq]
        exact ⟨h.1, ih (by omega) h.2⟩

/-- A write keeps the canonical form. -/
theorem Memory.wf_write {a : Nat} {b : Byte} {m : Memory} (ha : a < 4096) (h : m.wf = true) :
    (m.write a b).wf = true := wfAbove_write (Nat.zero_le _) ha h

/-- A read after a write, in any memory in canonical form. -/
theorem Memory.read_write_of_wfAbove {bound a : Nat} {b : Byte} {m : Memory} (p : Nat)
    (h : m.wfAbove bound = true) : (m.write a b).read p = if p = a then b else m.read p := by
  induction m generalizing bound with
  | nil => exact read_cons _ _ _ _ rfl
  | cons c rest ih =>
    simp only [wfAbove, Bool.and_eq_true, decide_eq_true_eq] at h
    simp only [write]
    split
    · refine read_cons _ _ _ _ (read_of_lt (bound := c.1) ?_ ‹_›)
      simp only [wfAbove, Bool.and_eq_true, decide_eq_true_eq]
      exact ⟨⟨⟨le_refl _, h.1.1.2⟩, h.1.2⟩, h.2⟩
    · split
      · subst_vars
        rw [read_cons _ _ _ _ (read_of_lt h.2 (by omega))]
        by_cases hp : p = c.1 <;> simp [read, hp, eq_comm]
      · simp only [read, ih h.2]
        by_cases hk : c.1 = p
        · have : p ≠ a := by omega
          simp [hk, this]
        · simp [hk]

/-- A memory operation of the machine keeps the canonical form (`writeByte` is the only one). -/
theorem State.wf_writeByte {s : State} (a : Addr) (b : Byte) (h : s.mem.wf = true) :
    (s.writeByte a b).mem.wf = true := Memory.wf_write a.isLt h

/-- Bytes placed inside the address space keep the canonical form. -/
theorem Memory.wf_place {m : Memory} {a : Nat} {bytes : List Byte} (h : m.wf = true) (ha : a + bytes.length ≤ 4096) :
    (m.place a bytes).wf = true := by
  induction bytes generalizing m a with
  | nil => exact h
  | cons b rest ih =>
    simp only [List.length_cons] at ha
    exact ih (wf_write (by omega) h) (by omega)

/-- What bytes placed from an address on leave at every address: the byte whose place it is, or the byte before. -/
theorem Memory.read_place {m : Memory} {a : Nat} {bytes : List Byte} (p : Nat) (h : m.wf = true)
    (ha : a + bytes.length ≤ 4096) :
    (m.place a bytes).read p = if h : a ≤ p ∧ p < a + bytes.length then bytes[p - a] else m.read p := by
  induction bytes generalizing m a with
  | nil => simp [place]
  | cons b rest ih =>
    simp only [List.length_cons] at ha
    rw [place, ih (wf_write (by omega) h) (by omega), read_write_of_wfAbove p h]
    rcases Nat.lt_trichotomy p a with hp | rfl | hp
    · rw [dif_neg (by omega), dif_neg (by omega), if_neg (by omega)]
    · rw [dif_neg (by omega), dif_pos ⟨le_refl _, by simp⟩, if_pos rfl]
      simp
    · by_cases hin : p < a + 1 + rest.length
      · rw [dif_pos ⟨hp, hin⟩, dif_pos ⟨by omega, by simp; omega⟩]
        simp [show p - a = p - (a + 1) + 1 by omega]
      · rw [dif_neg (by omega), dif_neg (by simp; omega), if_neg (by omega)]

/-- Beyond FONT an unlisted address reads as zero. -/
theorem Memory.unlisted_of_ge {a : Nat} (h : 80 ≤ a) : unlisted a = 0 := by
  simp [unlisted, Nat.not_lt.mpr h]

/-- Every FONT gives a reset memory in canonical form. -/
theorem State.wf_resetWith (font : Vector Byte 80) : (State.resetWith font).mem.wf = true :=
  Memory.wf_place rfl (by simp)

/-- The bytes after reset, for every FONT (10_state.md R46). -/
theorem State.readByte_resetWith (font : Vector Byte 80) (a : Addr) :
    (State.resetWith font).readByte a = if h : a.toNat < 80 then font[a.toNat] else 0 := by
  have hr := Memory.read_place (m := []) (a := 0x000) (bytes := font.toList) a.toNat rfl (by simp)
  refine hr.trans ?_
  by_cases h : a.toNat < 80
  · simp [h]
  · simp only [h, dif_neg, not_false_eq_true]
    rw [dif_neg (by simp; omega)]
    exact Memory.unlisted_of_ge (by omega)

/-- Placing what unlisted addresses read as anyway lists nothing. -/
theorem Memory.place_unlisted {a : Nat} {bytes : List Byte}
    (h : ∀ (i : Nat) (hi : i < bytes.length), bytes[i] = unlisted (a + i)) : place [] a bytes = [] := by
  induction bytes generalizing a with
  | nil => rfl
  | cons b rest ih =>
    have hb : b = unlisted a := h 0 (by simp)
    rw [place, show write [] a b = [] by simp [write, cons, hb]]
    refine ih fun i hi => ?_
    have := h (i + 1) (by simpa using hi)
    simpa [show a + 1 + i = a + (i + 1) by omega] using this

/-- `State.reset` is the reset state of the default FONT. -/
@[simp] theorem State.resetWith_font : State.resetWith Config.font = State.reset := by
  unfold State.resetWith
  rw [Memory.place_unlisted fun i hi => ?_]
  · rfl
  · have hi : i < 80 := by simpa using hi
    simp [Memory.unlisted, hi]

/-- Reset's memory is in canonical form. -/
theorem State.wf_reset : State.reset.mem.wf = true := rfl

end Sys2Proof.Machine
end

