-- ==== Sys2Proof/Laws/Ops.lean ====
section
/-! SUPPORT. One lemma per shared operation: what a register read gives after a write, what a memory read gives after
a store, the cases of push and pop, the addresses, the flag values. -/

namespace Sys2Proof.Machine

variable {s : State}

@[simp] theorem State.reg_setReg (s : State) (x : Reg) (b : Byte) (r : Reg) :
    (s.setReg x b).reg r = if r = x then b else s.reg r := by
  by_cases h : r = x
  · simp [State.reg, State.setReg, h]
  · have : x.val ≠ r.val := fun e => h (Fin.ext e.symm)
    simp [State.reg, State.setReg, h, this]

@[simp] theorem State.reg_setFlag (s : State) (b : Bool) (r : Reg) :
    (s.setFlag b).reg r = if r = VF then flagByte b else s.reg r := State.reg_setReg s VF (flagByte b) r

/-- The flag is written last: VF holds it whatever the destination (41_alu.md R160). -/
@[simp] theorem State.reg_setResult (s : State) (x : Reg) (b : Byte) (f : Bool) (r : Reg) :
    (s.setResult x b f).reg r = if r = VF then flagByte f else if r = x then b else s.reg r := by
  simp [State.setResult]

/-- A store reads back, and every other byte is as before, in a memory in canonical form. -/
theorem State.readByte_writeByte (h : s.mem.wf = true) (a : Addr) (b : Byte) (p : Addr) :
    (s.writeByte a b).readByte p = if p = a then b else s.readByte p := by
  simp only [State.readByte, State.writeByte, Memory.read_write_of_wfAbove p.toNat h, BitVec.toNat_eq]

/-- Push either raises StackOverflow on the untouched state or continues on the state with the address on top. -/
theorem State.push_cases (s : State) (depth : Option Nat) (a : Addr) (k : State → State) :
    (depth = some s.stack.length ∧ s.push depth a k = s.setFault .stackOverflow) ∨
    (depth ≠ some s.stack.length ∧ s.push depth a k = k (s.setStack (s.stack ++ [a]))) := by
  unfold State.push State.raiseFault
  split <;> simp_all

/-- Pop either raises StackUnderflow on the untouched state or continues on the top address and the rest. -/
theorem State.pop_cases (s : State) (k : Addr → State → State) :
    (s.stack = [] ∧ s.pop k = s.setFault .stackUnderflow) ∨
    (∃ a l, s.stack = l ++ [a] ∧ s.pop k = k a (s.setStack l)) := by
  rcases List.eq_nil_or_concat s.stack with h | ⟨l, a, h⟩
  · exact .inl ⟨h, by simp [State.pop, h, State.raiseFault]⟩
  · exact .inr ⟨a, l, by simpa using h, by simp [State.pop, h]⟩

theorem State.next_toNat (s : State) : s.next.toNat = (s.pc.toNat + 2) % 0x1000 := mask12_toNat _

theorem State.skip_toNat (s : State) : s.skip.toNat = (s.pc.toNat + 4) % 0x1000 := mask12_toNat _

theorem State.indexed_toNat (s : State) (k : Nat) : (s.indexed k).toNat = (s.i.toNat + k) % 0x1000 := mask12_toNat _

/-- The addresses of one transfer differ: an offset below 0x1000 is read off its address. -/
theorem State.indexed_inj (s : State) {j k : Nat} (hj : j < 0x1000) (hk : k < 0x1000) :
    s.indexed j = s.indexed k ↔ j = k := by
  rw [BitVec.toNat_eq, State.indexed_toNat, State.indexed_toNat]
  omega

@[simp] theorem flagByte_true : flagByte true = 1 := rfl

@[simp] theorem flagByte_false : flagByte false = 0 := rfl

theorem carry_iff (a b : Byte) : carry a b = true ↔ a.toNat + b.toNat > 0xFF := by simp [carry]

theorem notBorrow_iff (a b : Byte) : notBorrow a b = true ↔ a.toNat > b.toNat := by simp [notBorrow]

theorem regOf_val (x : Reg) : regOf x.val = x := by simp [regOf]

/-- A toggled pixel is inverted and every other pixel is as before. -/
theorem Framebuffer.pixel_toggle (fb : Framebuffer) (r q : Fin 32) (c d : Fin 64) :
    (fb.toggle r c).pixel q d = if q = r ∧ d = c then !fb.pixel q d else fb.pixel q d := by
  unfold Framebuffer.toggle Framebuffer.pixel
  by_cases hq : q = r
  · subst hq
    by_cases hd : d = c
    · subst hd; simp
    · have : c.val ≠ d.val := fun e => hd (Fin.ext e.symm)
      simp [hd, this]
  · have : r.val ≠ q.val := fun e => hq (Fin.ext e.symm)
    simp [hq, this]

@[simp] theorem Framebuffer.pixel_blank (r : Fin 32) (c : Fin 64) : Framebuffer.blank.pixel r c = false := by
  simp [Framebuffer.pixel, Framebuffer.blank]

/-- Two framebuffers with the same pixels are the same. -/
theorem Framebuffer.ext_pixel {f g : Framebuffer} (h : ∀ r c, f.pixel r c = g.pixel r c) : f = g := by
  apply Vector.ext
  intro r hr
  apply Vector.ext
  intro c hc
  exact h ⟨r, hr⟩ ⟨c, hc⟩

/-- One sprite bit, pixel by pixel. -/
theorem Canvas.drawBit_pixel (d : Canvas) (r q : Fin 32) (c e : Fin 64) (bit : Bool) :
    (d.drawBit r c bit).fb.pixel q e = (d.fb.pixel q e ^^ (bit && decide (q = r ∧ e = c))) := by
  unfold Canvas.drawBit
  cases bit
  · simp
  · by_cases h : q = r ∧ e = c <;> simp [Framebuffer.pixel_toggle, h]

/-- One sprite bit's collision. -/
theorem Canvas.drawBit_col (d : Canvas) (r : Fin 32) (c : Fin 64) (bit : Bool) :
    (d.drawBit r c bit).col = (d.col || (bit && d.fb.pixel r c)) := by
  unfold Canvas.drawBit
  cases bit <;> simp

/-- The reset event with the default FONT: the reset state, with the host's side kept. -/
@[simp] theorem State.resetEvent_font (s : State) :
    s.resetEvent Config.font = { State.reset with events := s.events, outputs := s.outputs, draws := s.draws } := by
  rw [State.resetEvent, State.resetWith_font]

@[simp] theorem State.resetEvent_readByte (font : Vector Byte 80) (s : State) (a : Addr) :
    (s.resetEvent font).readByte a = if h : a.toNat < 80 then font[a.toNat] else 0 := State.readByte_resetWith font a

end Sys2Proof.Machine
end

