-- ==== Sys2Proof/Laws/Step.lean ====
section
/-! SUPPORT. What a move can be, what an instruction leaves of the host's side, and the bits of it that an
instruction's meaning does not depend on. -/

namespace Sys2Proof.Machine

variable {s t : State}

/-- Every instruction has a next state in every state (60_exceptions.md R305). -/
theorem exec_completes (i : Instr) (s : State) : ∃ t, exec i s = .next t := by
  cases i <;> exact ⟨_, rfl⟩

/-- What one move can be: at rest, an event, the end of a tick, or an instruction of the burst. -/
theorem State.move_cases (s : State) :
    (s.burst = none ∧ s.events = [] ∧ s.move = s.atRest) ∨
    (∃ e es, s.burst = none ∧ s.events = e :: es ∧ s.move = .next (State.deliver e (s.setEvents es))) ∨
    (∃ k, s.burst = some k ∧ (k = 0 ∨ s.canStep = false) ∧ s.move = .next s.endTick) ∨
    (∃ k, s.burst = some (k + 1) ∧ s.canStep = true ∧ s.move = exec s.current (s.setBurst (some k))) := by
  unfold State.move State.nextEvent
  split
  · rename_i k hb
    by_cases hc : s.canStep = true
    · exact .inr (.inr (.inr ⟨k, hb, hc, by simp [hc]⟩))
    · exact .inr (.inr (.inl ⟨k + 1, hb, .inr (by simpa using hc), by simp [hc]⟩))
  · rename_i hb
    exact .inr (.inr (.inl ⟨0, hb, .inl rfl, rfl⟩))
  · rename_i hb
    split
    · exact .inl ⟨hb, by assumption, rfl⟩
    · rename_i e es he
      exact .inr (.inl ⟨e, es, hb, he, rfl⟩)

/-- A step may run exactly when the block neither waits nor is faulted. -/
theorem State.canStep_iff (s : State) : s.canStep = true ↔ s.waiting = false ∧ s.fault = .noFault := by
  simp [State.canStep]

/-- The result of storing a range differs in memory alone. -/
theorem State.storeRange_eq (s : State) (n : Nat) : ∃ m, s.storeRange n = { s with mem := m } := by
  induction n with
  | zero => exact ⟨s.mem, rfl⟩
  | succ n ih =>
    obtain ⟨m, h⟩ := ih
    unfold State.storeRange at h ⊢
    rw [List.range_succ, List.foldl_append, h]
    exact ⟨_, rfl⟩

/-- The result of loading a range differs in registers alone. -/
theorem State.loadRange_eq (s : State) (n : Nat) : ∃ v, s.loadRange n = { s with v := v } := by
  induction n with
  | zero => exact ⟨s.v, rfl⟩
  | succ n ih =>
    obtain ⟨v, h⟩ := ih
    unfold State.loadRange at h ⊢
    rw [List.range_succ, List.foldl_append, h]
    exact ⟨_, rfl⟩

end Sys2Proof.Machine
end

