-- ==== Sys2Proof/Laws/Run.lean ====
section
/-! SUPPORT. Runs of several steps (Host.Core.run of the machine), one step at a time and end to end. -/

namespace Sys2Proof.Machine

/-- A run of n + 1 steps is a step and a run of n steps. -/
theorem run_succ (n : Nat) (s : State) :
    Host.Core.run Sys2Proof.core (n + 1) s = andThen (step s) (Host.Core.run Sys2Proof.core n) := by
  have by_answer : ∀ r, Sys2Proof.core.step s = r →
      Host.Core.run Sys2Proof.core (n + 1) s = andThen r (Host.Core.run Sys2Proof.core n) := by
    intro r h
    refine (Host.Core.run.eq_2 Sys2Proof.core s n).trans ?_
    rw [h]
    cases r <;> rfl
  exact by_answer _ rfl

/-- A run that takes its first step goes on from there. -/
theorem run_of_step {n : Nat} {s t : State} (h : step s = .next t) :
    Host.Core.run Sys2Proof.core (n + 1) s = Host.Core.run Sys2Proof.core n t := by
  rw [run_succ, h]; rfl

/-- A run of m + n steps is a run of n steps from where m steps end. -/
theorem run_add {m n : Nat} {s t : State} (h : Host.Core.run Sys2Proof.core m s = .next t) :
    Host.Core.run Sys2Proof.core (m + n) s = Host.Core.run Sys2Proof.core n t := by
  induction m generalizing s with
  | zero =>
    have : s = t := Host.Outcome.next.inj h
    rw [this, Nat.zero_add]
  | succ m ih =>
    rw [run_succ] at h
    rw [Nat.add_right_comm, run_succ]
    cases hs : step s with
    | next u => rw [hs] at h; exact ih h
    | fault e => rw [hs] at h; exact absurd h (by simp [andThen])
    | refused e => rw [hs] at h; exact absurd h (by simp [andThen])

end Sys2Proof.Machine
end

