-- ==== Sys2Proof/Laws/Exec.lean ====
section
/-! SUPPORT. What the block operations of the meanings do, what an instruction leaves of the host's side, that it does
not look at the burst counter, and that `withFetchWord` puts an instruction where the next step runs it. -/

namespace Sys2Proof.Machine

variable {s t : State}

/-- Storing one register more is one more store. -/
theorem State.storeRange_succ (s : State) (n : Nat) :
    s.storeRange (n + 1) = (s.storeRange n).writeByte (s.indexed n) (s.reg (regOf n)) := by
  obtain ⟨m, hs⟩ := s.storeRange_eq n
  conv_lhs => unfold State.storeRange
  rw [List.range_succ, List.foldl_append]
  change (s.storeRange n).writeByte ((s.storeRange n).indexed n) ((s.storeRange n).reg (regOf n)) = _
  rw [hs]
  rfl

/-- Loading one register more is one more register write. -/
theorem State.loadRange_succ (s : State) (n : Nat) :
    s.loadRange (n + 1) = (s.loadRange n).setReg (regOf n) (s.readByte (s.indexed n)) := by
  obtain ⟨v, hs⟩ := s.loadRange_eq n
  conv_lhs => unfold State.loadRange
  rw [List.range_succ, List.foldl_append]
  change (s.loadRange n).setReg (regOf n) ((s.loadRange n).readByte ((s.loadRange n).indexed n)) = _
  rw [hs]
  rfl

/-- Storing registers keeps the canonical form. -/
theorem State.wf_storeRange (n : Nat) (h : s.mem.wf = true) : (s.storeRange n).mem.wf = true := by
  induction n with
  | zero => exact h
  | succ n ih => rw [State.storeRange_succ]; exact State.wf_writeByte _ _ ih

/-- What storing the first n registers leaves at every address: the register whose place it is, or the byte before. -/
theorem State.readByte_storeRange (h : s.mem.wf = true) {n : Nat} (hn : n ≤ 16) (p : Addr) :
    (∀ k, k < n → p = s.indexed k → (s.storeRange n).readByte p = s.reg (regOf k)) ∧
    ((∀ k, k < n → p ≠ s.indexed k) → (s.storeRange n).readByte p = s.readByte p) := by
  induction n with
  | zero => exact ⟨fun k hk => absurd hk (Nat.not_lt_zero k), fun _ => rfl⟩
  | succ n ih =>
    obtain ⟨inside, outside⟩ := ih (by omega)
    rw [State.storeRange_succ, State.readByte_writeByte (State.wf_storeRange n h)]
    refine ⟨fun k hk hp => ?_, fun hp => ?_⟩
    · by_cases hkn : k = n
      · rw [if_pos (hkn ▸ hp), hkn]
      · have hne : p ≠ s.indexed n := fun e =>
          hkn ((State.indexed_inj s (by omega) (by omega)).1 (hp.symm.trans e))
        rw [if_neg hne]
        exact inside k (by omega) hp
    · rw [if_neg (hp n (by omega))]
      exact outside fun k hk => hp k (by omega)

/-- What loading the first n registers leaves in every register. -/
theorem State.reg_loadRange (s : State) {n : Nat} (hn : n ≤ 16) (r : Reg) :
    (s.loadRange n).reg r = if r.val < n then s.readByte (s.indexed r.val) else s.reg r := by
  induction n with
  | zero => rfl
  | succ n ih =>
    rw [State.loadRange_succ, State.reg_setReg, ih (by omega)]
    by_cases h : r.val = n
    · subst h
      simp [regOf_val]
    · have hne : r ≠ regOf n := fun e => h (by rw [e]; simp [regOf]; omega)
      rw [if_neg hne]
      have hiff : r.val < n + 1 ↔ r.val < n := by omega
      simp only [hiff]

/-- An instruction's effect does not look at the burst counter and keeps it. -/
theorem exec_setBurst (i : Instr) (s : State) (b : Option Nat) :
    exec i (s.setBurst b) = andThen (exec i s) fun t => .next (t.setBurst b) := by
  cases i with
  | call nnn =>
    change Host.Outcome.next _ = Host.Outcome.next _
    congr 1
    simp only [callWith, State.push, State.setBurst_stack]
    by_cases hc : Config.stackDepth = some s.stack.length <;> simp only [hc, if_true, if_false] <;> rfl
  | ret =>
    change Host.Outcome.next _ = Host.Outcome.next _
    congr 1
    simp only [State.pop, State.setBurst_stack]
    split <;> rfl
  | storeRegs x =>
    have hs : ∀ n, (s.setBurst b).storeRange n = (s.storeRange n).setBurst b := by
      intro n
      induction n with
      | zero => rfl
      | succ n ih => rw [State.storeRange_succ, State.storeRange_succ, ih]; rfl
    change Host.Outcome.next _ = Host.Outcome.next _
    rw [hs]
    rfl
  | loadRegs x =>
    have hs : ∀ n, (s.setBurst b).loadRange n = (s.loadRange n).setBurst b := by
      intro n
      induction n with
      | zero => rfl
      | succ n ih => rw [State.loadRange_succ, State.loadRange_succ, ih]; rfl
    change Host.Outcome.next _ = Host.Outcome.next _
    rw [hs]
    rfl
  | _ => rfl

/-- An instruction leaves the host's side alone: events, burst counter, load phase and signals. -/
theorem exec_host (i : Instr) (h : exec i s = .next t) :
    t.events = s.events ∧ t.burst = s.burst ∧ t.loadPhase = s.loadPhase ∧ t.outputs = s.outputs := by
  replace h := h.symm
  cases i with
  | call nnn =>
    injection h with h
    subst h
    simp only [callWith, State.push]
    split <;> exact ⟨rfl, rfl, rfl, rfl⟩
  | ret =>
    injection h with h
    subst h
    simp only [State.pop]
    split <;> exact ⟨rfl, rfl, rfl, rfl⟩
  | storeRegs x =>
    injection h with h
    obtain ⟨m, e⟩ := s.storeRange_eq (x.val + 1)
    rw [e] at h
    subst h
    exact ⟨rfl, rfl, rfl, rfl⟩
  | loadRegs x =>
    injection h with h
    obtain ⟨v, e⟩ := s.loadRange_eq (x.val + 1)
    rw [e] at h
    subst h
    exact ⟨rfl, rfl, rfl, rfl⟩
  | _ =>
    injection h with h
    subst h
    exact ⟨rfl, rfl, rfl, rfl⟩

/-- A word placed at PC is the word fetched, at every PC, 0xFFF among them. -/
theorem State.fetch_placeWord (h : s.mem.wf = true) {w : Nat} (hw : w < 65536) :
    (s.placeWord w).fetch = BitVec.ofNat 16 w := by
  have hne : s.pc ≠ mask12 (s.pc.toNat + 1) := by
    intro e
    have := congrArg BitVec.toNat e
    rw [mask12_toNat] at this
    have := s.pc.isLt
    omega
  have hi : (s.placeWord w).readByte s.pc = BitVec.ofNat 8 (w / 256) := by
    unfold State.placeWord
    rw [State.readByte_writeByte (State.wf_writeByte _ _ h), if_neg hne, State.readByte_writeByte h, if_pos rfl]
  have lo : (s.placeWord w).readByte (mask12 (s.pc.toNat + 1)) = BitVec.ofNat 8 w := by
    unfold State.placeWord
    rw [State.readByte_writeByte (State.wf_writeByte _ _ h), if_pos rfl]
  apply BitVec.eq_of_toNat_eq
  change (opcodeOfBytes ((s.placeWord w).readByte s.pc) ((s.placeWord w).readByte (mask12 (s.pc.toNat + 1)))).toNat = _
  rw [hi, lo, opcodeOfBytes_toNat]
  simp only [BitVec.toNat_ofNat]
  omega

/-- The step after `withFetchWord` runs exactly the placed instruction. -/
theorem step_withFetchWord (h : s.mem.wf = true) {w : Nat} (hw : w < 65536) :
    step (s.withFetchWord 16 w) =
      exec (decode (BitVec.ofNat 16 w)) ((s.withFetchWord 16 w).setBurst (some (openBurst s.burst - 1))) := by
  have hmod : w % 2 ^ 16 = w := Nat.mod_eq_of_lt hw
  have hcur : (s.withFetchWord 16 w).current = decode (BitVec.ofNat 16 w) := by
    unfold State.current State.withFetchWord
    rw [hmod, ← State.fetch_placeWord h hw]
    rfl
  have hopen : ∃ k, openBurst s.burst = k + 1 := by
    cases hb : s.burst with
    | none => exact ⟨9, rfl⟩
    | some n =>
      cases n with
      | zero => exact ⟨9, rfl⟩
      | succ k => exact ⟨k, rfl⟩
  obtain ⟨k, hk⟩ := hopen
  have hburst : (s.withFetchWord 16 w).burst = some (k + 1) := by
    rw [← hk]
    rfl
  unfold step State.move
  rw [hburst, hcur, hk]
  rfl

end Sys2Proof.Machine
end

