-- ==== Sys2Proof/Laws/PerInstr.lean ====
section
/-! SUPPORT. Statements made instruction by instruction. Family EncodingRow: an instruction's word lies in its row of
the opcode map (30_encoding.md R105). -/

namespace Sys2Proof.Laws.EncodingRow

/-- The encoded word matches the mask and the match of the instruction's row. -/
def Statement (i : Instr) : Prop := encode i &&& i.row.mask = i.row.value

theorem of_addr {o : BitVec 4} {v : Opcode} {nnn : Addr} (h : v.toNat = o.toNat * 4096) :
    packAddr o nnn &&& 0xF000#16 = v := by
  apply BitVec.eq_of_toNat_eq
  rw [and_F000, packAddr_toNat, h]
  have := nnn.isLt
  omega

theorem of_imm {o : BitVec 4} {v : Opcode} {x : Reg} {kk : Byte} (h : v.toNat = o.toNat * 4096) :
    packImm o x kk &&& 0xF000#16 = v := by
  apply BitVec.eq_of_toNat_eq
  rw [and_F000, packImm_toNat, h]
  have := kk.isLt
  omega

theorem of_immLow {o : BitVec 4} {v : Opcode} {x : Reg} {kk : Byte} (h : v.toNat = o.toNat * 4096 + kk.toNat) :
    packImm o x kk &&& 0xF0FF#16 = v := by
  apply BitVec.eq_of_toNat_eq
  rw [and_F0FF, packImm_toNat, h]
  have := kk.isLt
  omega

theorem of_nibbles {o : BitVec 4} {v : Opcode} {x y n : Fin 16} (h : v.toNat = o.toNat * 4096) :
    packNibbles o x y n &&& 0xF000#16 = v := by
  apply BitVec.eq_of_toNat_eq
  rw [and_F000, packNibbles_toNat, h]
  omega

theorem of_nibblesLow {o : BitVec 4} {v : Opcode} {x y n : Fin 16} (h : v.toNat = o.toNat * 4096 + n.val) :
    packNibbles o x y n &&& 0xF00F#16 = v := by
  apply BitVec.eq_of_toNat_eq
  rw [and_F00F, packNibbles_toNat, h]
  omega

theorem cls : Statement (.cls) := rfl

theorem ret : Statement (.ret) := rfl

theorem jp (nnn : Addr) : Statement (.jp nnn) := of_addr rfl

theorem call (nnn : Addr) : Statement (.call nnn) := of_addr rfl

theorem seImm (x : Reg) (kk : Byte) : Statement (.seImm x kk) := of_imm rfl

theorem sneImm (x : Reg) (kk : Byte) : Statement (.sneImm x kk) := of_imm rfl

theorem seReg (x : Reg) (y : Reg) : Statement (.seReg x y) := of_nibblesLow rfl

theorem ldImm (x : Reg) (kk : Byte) : Statement (.ldImm x kk) := of_imm rfl

theorem addImm (x : Reg) (kk : Byte) : Statement (.addImm x kk) := of_imm rfl

theorem ldReg (x : Reg) (y : Reg) : Statement (.ldReg x y) := of_nibblesLow rfl

theorem orReg (x : Reg) (y : Reg) : Statement (.orReg x y) := of_nibblesLow rfl

theorem andReg (x : Reg) (y : Reg) : Statement (.andReg x y) := of_nibblesLow rfl

theorem xorReg (x : Reg) (y : Reg) : Statement (.xorReg x y) := of_nibblesLow rfl

theorem addReg (x : Reg) (y : Reg) : Statement (.addReg x y) := of_nibblesLow rfl

theorem sub (x : Reg) (y : Reg) : Statement (.sub x y) := of_nibblesLow rfl

theorem shr (x : Reg) (y : Reg) : Statement (.shr x y) := of_nibblesLow rfl

theorem subn (x : Reg) (y : Reg) : Statement (.subn x y) := of_nibblesLow rfl

theorem shl (x : Reg) (y : Reg) : Statement (.shl x y) := of_nibblesLow rfl

theorem sneReg (x : Reg) (y : Reg) : Statement (.sneReg x y) := of_nibblesLow rfl

theorem ldI (nnn : Addr) : Statement (.ldI nnn) := of_addr rfl

theorem jpV0 (nnn : Addr) : Statement (.jpV0 nnn) := of_addr rfl

theorem rnd (x : Reg) (kk : Byte) : Statement (.rnd x kk) := of_imm rfl

theorem drw (x : Reg) (y : Reg) (n : Fin 16) : Statement (.drw x y n) := of_nibbles rfl

theorem skp (x : Reg) : Statement (.skp x) := of_immLow rfl

theorem sknp (x : Reg) : Statement (.sknp x) := of_immLow rfl

theorem ldVxDT (x : Reg) : Statement (.ldVxDT x) := of_immLow rfl

theorem ldVxK (x : Reg) : Statement (.ldVxK x) := of_immLow rfl

theorem ldDTVx (x : Reg) : Statement (.ldDTVx x) := of_immLow rfl

theorem ldSTVx (x : Reg) : Statement (.ldSTVx x) := of_immLow rfl

theorem addI (x : Reg) : Statement (.addI x) := of_immLow rfl

theorem ldF (x : Reg) : Statement (.ldF x) := of_immLow rfl

theorem ldB (x : Reg) : Statement (.ldB x) := of_immLow rfl

theorem storeRegs (x : Reg) : Statement (.storeRegs x) := of_immLow rfl

theorem loadRegs (x : Reg) : Statement (.loadRegs x) := of_immLow rfl

theorem unrecognized (op : Opcode) : Statement (.unrecognized op) := BitVec.and_zero

end Sys2Proof.Laws.EncodingRow
end

