-- ==== Sys2Proof/Tests/Slice0.lean ====
section
/-! SUPPORT. The model's own tests: ill-formed terms, words written out bit by bit from 30_encoding.md R105, vectors of
95_test_vectors.md (named in each docstring), and witnesses that the hypotheses of the statements can be met. Expected
values are the spec's, not the model's. -/

namespace Sys2Proof.Tests

open Sys2Proof.Machine Sys2Proof.Claims

/-- The reset state with some registers set. -/
def start (regs : List (Reg × Byte)) : State := regs.foldl (fun s p => s.setReg p.1 p.2) State.reset

/-- Bytes stored from an address on. -/
def poke (s : State) (a : Nat) (bytes : List Byte) : State :=
  match bytes with
  | [] => s
  | b :: rest => poke (s.writeByte (mask12 a) b) (a + 1) rest

/-- Some pixels made true. -/
def lit (s : State) (pixels : List (Fin 32 × Fin 64)) : State :=
  pixels.foldl (fun s p => s.setFb (s.fb.toggle p.1 p.2)) s

/-- The answer is a next state with the given property. -/
def gives (r : Result) (p : State → Bool) : Bool :=
  match r with
  | .next t => p t
  | _ => false

/-- One step of a word placed at PC gives a next state with the given property. -/
def does (s : State) (w : Nat) (p : State → Bool) : Bool := gives (step (s.withFetchWord 16 w)) p

/-- One step between events, the given event next, gives a next state with the given property. -/
def takes (s : State) (e : Event) (p : State → Bool) : Bool := gives (step (withEvent s e [])) p

/-! ## WellFormed: every class of R108, and a neighbouring word of each that is an instruction -/

/-- 0nnn other than 00E0 and 00EE; the two instructions themselves are refused as unrecognized terms. -/
theorem test_wf_class0 :
    (Instr.unrecognized 0x00E0).wf = false ∧ (Instr.unrecognized 0x00EE).wf = false ∧
    (Instr.unrecognized 0x00E1).wf = true := by decide

/-- 5xyN and 9xyN. -/
theorem test_wf_class59 :
    (Instr.unrecognized 0x5120).wf = false ∧ (Instr.unrecognized 0x9120).wf = false ∧
    (Instr.unrecognized 0x912F).wf = true := by decide

/-- 8xyN. -/
theorem test_wf_class8 :
    (Instr.unrecognized 0x8127).wf = false ∧ (Instr.unrecognized 0x812E).wf = false ∧
    (Instr.unrecognized 0x8128).wf = true := by decide

/-- Exkk and Fxkk. -/
theorem test_wf_classEF :
    (Instr.unrecognized 0xE59E).wf = false ∧ (Instr.unrecognized 0xE5A1).wf = false ∧
    (Instr.unrecognized 0xF01E).wf = false ∧ (Instr.unrecognized 0xF01F).wf = true := by decide

/-- The major opcodes with no unrecognized word. -/
theorem test_wf_full_rows :
    (Instr.unrecognized 0x1000).wf = false ∧ (Instr.unrecognized 0x7FFF).wf = false ∧
    (Instr.unrecognized 0xDFFF).wf = false := by decide

/-! ## Decoding: one word of every row, bit by bit from its pattern in R105 -/

/-- 00EE, 1nnn, 2nnn, 3xkk, 4xkk, 5xy0, 9xy0, Bnnn. -/
theorem test_decode_control :
    decode 0b0000000011101110 = .ret ∧
    decode 0b0001101010111100 = .jp 0xABC ∧
    decode 0b0010001000010000 = .call 0x210 ∧
    decode 0b0011001101000010 = .seImm 3 0x42 ∧
    decode 0b0100001101000011 = .sneImm 3 0x43 ∧
    decode 0b0101000100100000 = .seReg 1 2 ∧
    decode 0b1001000100100000 = .sneReg 1 2 ∧
    decode 0b1011001100000000 = .jpV0 0x300 := by decide

/-- 6xkk, 7xkk, Cxkk. -/
theorem test_decode_immediate :
    decode 0b0110101001111011 = .ldImm 10 0x7B ∧
    decode 0b0111000111111111 = .addImm 1 0xFF ∧
    decode 0b1100001100001111 = .rnd 3 0x0F := by decide

/-- 8xy0 to 8xy7 and 8xyE. -/
theorem test_decode_group8 :
    decode 0b1000000100100000 = .ldReg 1 2 ∧
    decode 0b1000000100100001 = .orReg 1 2 ∧
    decode 0b1000000100100010 = .andReg 1 2 ∧
    decode 0b1000000100100011 = .xorReg 1 2 ∧
    decode 0b1000000100100100 = .addReg 1 2 ∧
    decode 0b1000000100100101 = .sub 1 2 ∧
    decode 0b1000000100100110 = .shr 1 2 ∧
    decode 0b1000000100100111 = .subn 1 2 ∧
    decode 0b1000000100101110 = .shl 1 2 := by decide

/-- Annn, Fx1E, Fx29, Fx33, Fx55, Fx65. -/
theorem test_decode_index :
    decode 0b1010001100000000 = .ldI 0x300 ∧
    decode 0b1111001000011110 = .addI 2 ∧
    decode 0b1111001000101001 = .ldF 2 ∧
    decode 0b1111101000110011 = .ldB 10 ∧
    decode 0b1111000101010101 = .storeRegs 1 ∧
    decode 0b1111001001100101 = .loadRegs 2 := by decide

/-- 00E0, Dxyn. -/
theorem test_decode_display :
    decode 0b0000000011100000 = .cls ∧
    decode 0b1101000000010010 = .drw 0 1 2 := by decide

/-- Ex9E, ExA1, Fx07, Fx0A, Fx15, Fx18. -/
theorem test_decode_timers_keypad :
    decode 0b1110010110011110 = .skp 5 ∧
    decode 0b1110010110100001 = .sknp 5 ∧
    decode 0b1111000100000111 = .ldVxDT 1 ∧
    decode 0b1111001100001010 = .ldVxK 3 ∧
    decode 0b1111000000010101 = .ldDTVx 0 ∧
    decode 0b1111000000011000 = .ldSTVx 0 := by decide

/-- UN1 to UN11. -/
theorem test_decode_unrecognized :
    decode 0x0000 = .unrecognized 0x0000 ∧ decode 0x0123 = .unrecognized 0x0123 ∧
    decode 0x00E1 = .unrecognized 0x00E1 ∧ decode 0x5121 = .unrecognized 0x5121 ∧
    decode 0x8128 = .unrecognized 0x8128 ∧ decode 0x812F = .unrecognized 0x812F ∧
    decode 0x912F = .unrecognized 0x912F ∧ decode 0xE59F = .unrecognized 0xE59F ∧
    decode 0xF000 = .unrecognized 0xF000 ∧ decode 0xF0FF = .unrecognized 0xF0FF ∧
    decode 0xF01F = .unrecognized 0xF01F := by decide

/-- Two bytes make an instruction, one does not, and the rest is given back (R100). -/
theorem test_decode_bytes :
    decodeBytes [0x12] = .error .truncated ∧ decodeBytes [] = .error .truncated ∧
    decodeBytes [0x12, 0x00, 0x6A] = .ok (.jp 0x200, [0x6A]) := ⟨rfl, rfl, rfl⟩

/-- The host's word is the 16-bit opcode; a wider word is no instruction here. -/
theorem test_decode_table_word :
    decodeTableWord 16 0xD012 = some (.drw 0 1 2) ∧ decodeTableWord 16 0x0000 = some (.unrecognized 0x0000) ∧
    decodeTableWord 32 0x1D012 = none := by decide

/-! ## Control flow -/

/-- CF1: a return on an empty stack. -/
theorem test_ret_underflow :
    does (start []) 0x00EE (fun t => t.faultCode == 2 && t.pc == 0x200 && t.stack == []) = true := by decide

/-- CF2, the innermost address of two. -/
theorem test_ret_pops :
    does ((start []).setStack [0x400, 0x206]) 0x00EE (fun t => t.pc == 0x206 && t.stack == [0x400]) = true := by decide

/-- CF4: a jump to an odd address. -/
theorem test_jp : does ((start []).setPc 0x300) 0x1301 (fun t => t.pc == 0x301) = true := by decide

/-- CF6: the return address wraps. -/
theorem test_call_wraps :
    does ((start []).setPc 0xFFE) 0x2400 (fun t => t.pc == 0x400 && t.stack == [0x000]) = true := by decide

/-- CF7: a full stack. -/
theorem test_call_overflow :
    does ((start []).setStack (List.replicate 16 0x222)) 0x2400
      (fun t => t.faultCode == 1 && t.pc == 0x200 && t.stack.length == 16) = true := by decide

/-- CF8: no bound. -/
theorem test_call_unbounded :
    (callWith none 0x400 (((start []).setPc 0x300).setStack (List.replicate 16 0x222))).stack.getLast? = some 0x302 := by
  decide

/-- CF9, CF10. -/
theorem test_se_imm :
    does (start [(3, 0x42)]) 0x3342 (fun t => t.pc == 0x204) = true ∧
    does (start [(3, 0x42)]) 0x3343 (fun t => t.pc == 0x202) = true := by decide

/-- CF20, CF21: the skip wraps. -/
theorem test_skip_wraps :
    does ((start []).setPc 0xFFC) 0x3000 (fun t => t.pc == 0x000) = true ∧
    does ((start []).setPc 0xFFE) 0x3000 (fun t => t.pc == 0x002) = true := by decide

/-- CF11, CF12. -/
theorem test_sne_imm :
    does (start [(3, 0x42)]) 0x4342 (fun t => t.pc == 0x202) = true ∧
    does (start [(3, 0x42)]) 0x4343 (fun t => t.pc == 0x204) = true := by decide

/-- CF13, CF14. -/
theorem test_se_reg :
    does (start [(1, 7), (2, 7)]) 0x5120 (fun t => t.pc == 0x204) = true ∧
    does (start [(1, 9)]) 0x5110 (fun t => t.pc == 0x204) = true := by decide

/-- CF16, CF17. -/
theorem test_sne_reg :
    does (start [(1, 7), (2, 8)]) 0x9120 (fun t => t.pc == 0x204) = true ∧
    does (start [(1, 7)]) 0x9110 (fun t => t.pc == 0x202) = true := by decide

/-- CF18, CF19. -/
theorem test_jp_v0 :
    does (start [(0, 0x04)]) 0xB300 (fun t => t.pc == 0x304) = true ∧
    does (start [(0, 0xFF)]) 0xBFFF (fun t => t.pc == 0x0FE) = true := by decide

/-! ## Arithmetic and random -/

/-- AL1. -/
theorem test_ld_imm : does (start []) 0x6A7B (fun t => t.reg 10 == 0x7B && t.pc == 0x202) = true := by decide

/-- AL2, AL4. -/
theorem test_add_imm :
    does (start [(1, 0x05), (15, 0x55)]) 0x71FF (fun t => t.reg 1 == 0x04 && t.reg 15 == 0x55) = true ∧
    does (start [(15, 0xFF)]) 0x7F01 (fun t => t.reg 15 == 0x00) = true := by decide

/-- AL5. -/
theorem test_ld_reg : does (start [(2, 0x33)]) 0x8120 (fun t => t.reg 1 == 0x33) = true := by decide

/-- AL6. -/
theorem test_or :
    does (start [(1, 0x0F), (2, 0xF0), (15, 0x77)]) 0x8121 (fun t => t.reg 1 == 0xFF && t.reg 15 == 0x77) = true := by
  decide

/-- AL7. -/
theorem test_and :
    does (start [(1, 0x3C), (2, 0x0F), (15, 0x77)]) 0x8122 (fun t => t.reg 1 == 0x0C && t.reg 15 == 0x77) = true := by
  decide

/-- AL8, AL9. -/
theorem test_xor :
    does (start [(1, 0x3C), (2, 0x0F)]) 0x8123 (fun t => t.reg 1 == 0x33) = true ∧
    does (start [(1, 0x3C)]) 0x8113 (fun t => t.reg 1 == 0x00) = true := by decide

/-- W4, AL11. -/
theorem test_add_reg :
    does (start [(0, 0xFF), (1, 0x01)]) 0x8014 (fun t => t.reg 0 == 0x00 && t.reg 15 == 1) = true ∧
    does (start [(0, 0x7F), (1, 0x01), (15, 1)]) 0x8014 (fun t => t.reg 0 == 0x80 && t.reg 15 == 0) = true := by decide

/-- AL13b, AL13c: the flag is written last, and y = F is read before it. -/
theorem test_add_reg_vf :
    does (start [(15, 0x10), (1, 0x01)]) 0x8F14 (fun t => t.reg 15 == 0) = true ∧
    does (start [(1, 0xFF), (15, 0x01)]) 0x81F4 (fun t => t.reg 1 == 0x00 && t.reg 15 == 1) = true := by decide

/-- W5, AL14. -/
theorem test_sub :
    does (start [(0, 0x01), (1, 0x02)]) 0x8015 (fun t => t.reg 0 == 0xFF && t.reg 15 == 0) = true ∧
    does (start [(0, 0x05), (1, 0x05), (15, 1)]) 0x8015 (fun t => t.reg 0 == 0x00 && t.reg 15 == 0) = true := by decide

/-- AL19, AL20. -/
theorem test_shr :
    does (start [(1, 0x05), (2, 0xFF)]) 0x8126 (fun t => t.reg 1 == 0x02 && t.reg 15 == 1 && t.reg 2 == 0xFF) = true ∧
    does (start [(15, 0x03)]) 0x8FF6 (fun t => t.reg 15 == 1) = true := by decide

/-- AL23, AL24. -/
theorem test_subn :
    does (start [(1, 0x03), (2, 0x01)]) 0x8127 (fun t => t.reg 1 == 0xFE && t.reg 15 == 0) = true ∧
    does (start [(1, 0x04), (2, 0x04), (15, 1)]) 0x8127 (fun t => t.reg 1 == 0x00 && t.reg 15 == 0) = true := by decide

/-- AL25, AL28. -/
theorem test_shl :
    does (start [(1, 0x81)]) 0x810E (fun t => t.reg 1 == 0x02 && t.reg 15 == 1) = true ∧
    does (start [(15, 0x40)]) 0x8FFE (fun t => t.reg 15 == 0) = true := by decide

/-- AL29, AL31, on the random byte the vector gives. -/
theorem test_rnd_on_sample :
    (rndWith 0xA5 3 0x0F (start [])).reg 3 = 0x05 ∧ (rndWith 0x3C 15 0xFF (start [])).reg 15 = 0x3C := by decide

/-- A Cxkk advances PC and takes one sample, whatever byte it reads. -/
theorem test_rnd_advances : does (start []) 0xC300 (fun t => t.pc == 0x202 && t.draws == 1) = true := by decide

/-! ## Index and memory -/

/-- MX1. -/
theorem test_ld_i : does (start []) 0xA300 (fun t => t.i == 0x300) = true := by decide

/-- MX2, MX3. -/
theorem test_add_i :
    does ((start [(2, 0x10), (15, 0x42)]).setI 0x300) 0xF21E (fun t => t.i == 0x310 && t.reg 15 == 0x42) = true ∧
    does ((start [(0, 0x20)]).setI 0xFF0) 0xF01E (fun t => t.i == 0x010) = true := by decide

/-- MX5, MX7. -/
theorem test_ld_f :
    does (start [(2, 0x0F)]) 0xF229 (fun t => t.i == 0x04B) = true ∧
    does (start [(2, 0xFF)]) 0xF229 (fun t => t.i == 0x4FB) = true := by decide

/-- MX8. -/
theorem test_ld_b :
    does ((start [(10, 0x7B)]).setI 0x300) 0xFA33
      (fun t => t.readByte 0x300 == 1 && t.readByte 0x301 == 2 && t.readByte 0x302 == 3 && t.i == 0x300) = true := by
  decide

/-- MX12: the digits wrap over the font. -/
theorem test_ld_b_wraps :
    does ((start [(10, 0x0A)]).setI 0xFFF) 0xFA33
      (fun t => t.readByte 0xFFF == 0 && t.readByte 0x000 == 1 && t.readByte 0x001 == 0) = true := by decide

/-- MX13. -/
theorem test_store_regs :
    does ((start [(0, 0x11), (1, 0x22), (2, 0x33)]).setI 0x400) 0xF155
      (fun t => t.readByte 0x400 == 0x11 && t.readByte 0x401 == 0x22 && t.readByte 0x402 == 0 && t.i == 0x400) =
      true := by decide

/-- MX14. -/
theorem test_store_regs_wraps :
    does ((start [(0, 1), (1, 2), (2, 3), (3, 4)]).setI 0xFFE) 0xF355
      (fun t => t.readByte 0xFFE == 1 && t.readByte 0xFFF == 2 && t.readByte 0x000 == 3 && t.readByte 0x001 == 4) =
      true := by decide

/-- MX16. -/
theorem test_load_regs :
    does ((poke (start [(3, 0x99)]) 0x300 [1, 2, 3, 4]).setI 0x300) 0xF265
      (fun t => t.reg 0 == 1 && t.reg 1 == 2 && t.reg 2 == 3 && t.reg 3 == 0x99 && t.i == 0x300) = true := by decide

/-- MX19, with the default font. -/
theorem test_load_regs_wraps :
    does ((poke (start []) 0xFFF [0x12]).setI 0xFFF) 0xF165 (fun t => t.reg 0 == 0x12 && t.reg 1 == 0xF0) = true := by
  decide

/-- Writing back what an unlisted address reads as removes the entry. -/
theorem test_memory_canonical :
    (poke (poke State.reset 0x300 [7, 8]) 0x300 [0]).mem = [(0x301, 8)] ∧
    (poke State.reset 0x000 [0xF0]).mem = [] := by decide

/-- A block with another FONT: its bytes stand at 0x000..0x04F after reset, and Fx65 reads them. -/
theorem test_other_font :
    (State.resetWith (Vector.replicate 80 0xAA)).readByte 0x04F = 0xAA ∧
    (State.resetWith (Vector.replicate 80 0xAA)).readByte 0x050 = 0 ∧
    does (State.resetWith (Vector.replicate 80 0xAA)) 0xF065 (fun t => t.reg 0 == 0xAA) = true := by decide

/-! ## Display -/

/-- DP1. -/
theorem test_cls :
    does (lit (start [(15, 1)]) [(0, 0), (31, 63)]) 0x00E0
      (fun t => !t.pixel 0 0 && !t.pixel 31 63 && t.reg 15 == 1 && t.pc == 0x202) = true := by decide

/-- DP4: the sprite wraps at both edges. -/
theorem test_drw_wraps :
    does ((poke (start [(0, 0x3E), (1, 0x1F)]) 0x210 [0xC3, 0x81]).setI 0x210) 0xD012
      (fun t => t.pixel 0 5 && t.pixel 0 62 && t.pixel 31 4 && t.pixel 31 5 && t.pixel 31 62 && t.pixel 31 63 &&
        !t.pixel 0 63 && !t.pixel 31 6 && t.reg 15 == 0) = true := by decide

/-- DP3 and DP7: a collision needs a 1 bit on a true pixel. -/
theorem test_drw_collision :
    does ((poke (lit (start []) [(0, 0), (0, 1)]) 0x210 [0xC0]).setI 0x210) 0xD011
      (fun t => !t.pixel 0 0 && !t.pixel 0 1 && t.reg 15 == 1) = true ∧
    does ((poke (lit (start []) [(0, 0)]) 0x210 [0x40]).setI 0x210) 0xD011
      (fun t => t.pixel 0 0 && t.pixel 0 1 && t.reg 15 == 0) = true := by decide

/-! ## Timers and keypad -/

/-- TK1 to TK4 on the input they give; a key code above 0xF takes the free answer (R260). -/
theorem test_key_down :
    keyDownOf 0x0400 false 0x0A = true ∧ keyDownOf 0x0000 true 0x0A = false ∧
    keyDownOf 0x0000 true 0x10 = true ∧ keyDownOf 0xFFFF false 0x10 = false := by decide

/-- TK1 to TK4, the two ways of the skip. -/
theorem test_key_skip :
    ((start []).skipIf true).pc = 0x204 ∧ ((start []).skipIf false).pc = 0x202 := by decide

/-- TK5: either answer, PC goes to 0x202 or 0x204, and one sample is taken. -/
theorem test_skp_takes_sample : does (start [(5, 0x10)]) 0xE59E (fun t => t.draws == 1) = true := by decide

/-- TK5 for SKNP. -/
theorem test_sknp_takes_sample : does (start [(5, 0x10)]) 0xE5A1 (fun t => t.draws == 1) = true := by decide

/-- TK6. -/
theorem test_ld_vx_dt : does ((start []).setDt 3) 0xF107 (fun t => t.reg 1 == 3 && t.dt == 3) = true := by decide

/-- TK7. -/
theorem test_ld_dt_vx : does (start [(0, 5)]) 0xF015 (fun t => t.dt == 5 && t.st == 0) = true := by decide

/-- TK8. -/
theorem test_ld_st_vx : does (start [(0, 2)]) 0xF018 (fun t => t.st == 2 && t.outputs == []) = true := by decide

/-- TK9. -/
theorem test_key_wait :
    does ((start [(3, 0x44)]).setPc 0x204) 0xF30A (fun t => t.waiting && t.pc == 0x204 && t.reg 3 == 0x44) = true := by
  decide

/-! ## Unrecognized words and fetch -/

/-- UN4, UN12. -/
theorem test_unrecognized :
    does (start [(1, 1), (2, 1)]) 0x5121 (fun t => t.pc == 0x202 && t.reg 1 == 1) = true ∧
    does ((start []).setPc 0xFFE) 0x0000 (fun t => t.pc == 0x000) = true := by decide

/-- W1f and UN13: an opcode at 0xFFF takes its low byte from 0x000 (default font), and an odd PC fetches normally. -/
theorem test_fetch :
    ((poke (start []) 0xFFF [0x61]).setPc 0xFFF).fetch = 0x61F0 ∧
    ((poke (start []) 0x201 [0x6A, 0x42]).setPc 0x201).fetch = 0x6A42 := by decide

/-- The word placed by `withFetchWord` runs at the very next step from reset, at the edge of memory too. -/
theorem test_with_fetch_word :
    does State.reset 0x61AB (fun t => t.reg 1 == 0xAB && t.pc == 0x202) = true ∧
    does (State.reset.setPc 0xFFF) 0x61AB (fun t => t.reg 1 == 0xAB && t.pc == 0x001) = true := by decide

/-! ## Events -/

/-- TK10, TK13. -/
theorem test_key_release :
    takes ((poke ((start []).setPc 0x204) 0x204 [0xF3, 0x0A]).setWaiting true) (.keyRelease 0xA)
      (fun t => t.reg 3 == 0x0A && !t.waiting && t.pc == 0x206) = true ∧
    takes ((poke ((start []).setPc 0xFFE) 0xFFE [0xF0, 0x0A]).setWaiting true) (.keyRelease 0x2)
      (fun t => t.reg 0 == 0x02 && t.pc == 0x000) = true := by decide

/-- TK11. -/
theorem test_key_release_not_waiting :
    takes (start [(3, 0x0A)]) (.keyRelease 0xB) (fun t => t.reg 3 == 0x0A && t.pc == 0x200) = true := by decide

/-- EV2, EV3, EV4: the countdown and the tone. -/
theorem test_tick :
    takes ((start []).setDt 5) .tick (fun t => t.dt == 4 && t.outputs == [] && t.burst == some 10) = true ∧
    takes ((start []).setSt 2) .tick (fun t => t.st == 1 && t.outputs == [.toneStart]) = true ∧
    takes ((start []).setSt 1) .tick (fun t => t.st == 0 && t.outputs == [.toneStop]) = true := by decide

/-- EV5, EV9: inside a tick, a waiting or faulted block runs no step and redraws. -/
theorem test_tick_without_steps :
    gives (step (((start []).setWaiting true).setBurst (some 10)))
      (fun t => t.pc == 0x200 && t.burst == none && t.outputs.length == 1) = true ∧
    gives (step (((start []).setFault .stackUnderflow).setBurst (some 10)))
      (fun t => t.faultCode == 2 && t.burst == none && t.outputs.length == 1) = true := by decide

/-- EV10, EV11. -/
theorem test_repaint_reset :
    takes (start [(3, 1)]) .repaint (fun t => t.reg 3 == 1 && t.outputs == [.redraw Framebuffer.blank]) = true ∧
    takes ((start [(3, 1)]).setFault .stackOverflow) .reset (fun t => t.reg 3 == 0 && t.faultCode == 0) = true := by
  decide

/-- The load port writes in the load phase only (R86). -/
theorem test_load :
    takes (start []) (.load 0x200 0x12) (fun t => t.readByte 0x200 == 0x12) = true ∧
    takes (start []).closeLoad (.load 0x200 0x12) (fun t => t.readByte 0x200 == 0) = true := by decide

/-! ## Witnesses: the hypotheses of the statements can be met, clause by clause -/

/-- The reset state inside a tick, the load phase over. -/
def inTick (s : State) : State := (s.setBurst (some 10)).closeLoad

/-- A block that waits for V3 at 0x204. -/
def waitingBlock : State := (poke ((start []).setPc 0x204) 0x204 [0xF3, 0x0A]).closeLoad.setWaiting true

/-- A block faulted by a return on an empty stack. -/
def faultedBlock : State := (start []).closeLoad.setFault .stackUnderflow

/-- The hypothesis of every `Encoded` clause, at the lowest and the highest word of its row. -/
theorem witness_Encoded :
    ∀ r ∈ opcodeRows, r.hits r.value = true ∧ r.hits (r.value ||| ~~~ r.mask) = true := by decide

theorem witness_DecodeOfEncodeIsIdentity :
    (Instr.drw 15 15 15).wf = true ∧ (Instr.unrecognized 0xFFFF).wf = true ∧ (Instr.unrecognized 0x0000).wf = true := by
  decide

/-- At 0x200, and at 0xFFF, where the low byte comes from 0x000. -/
theorem witness_StepRunsDecodedInstruction :
    (let s := inTick (poke (start []) 0x200 [0x6A, 0x7B])
     s.burst = some (9 + 1) ∧ s.waiting = false ∧ s.fault = .noFault ∧
     (s.readByte s.pc).toNat = (0x6A7B : Opcode).toNat / 256 ∧
     (s.readByte (BitVec.ofNat 12 (s.pc.toNat + 1))).toNat = (0x6A7B : Opcode).toNat % 256 ∧
     decode 0x6A7B = .ldImm 10 0x7B ∧ (Instr.ldImm 10 0x7B).wf = true) ∧
    (let s := (inTick (poke (start []) 0xFFF [0x51, 0x21])).setPc 0xFFF
     s.burst = some (9 + 1) ∧ s.waiting = false ∧ s.fault = .noFault ∧
     (s.readByte s.pc).toNat = (0x5121 : Opcode).toNat / 256 ∧
     (s.readByte (BitVec.ofNat 12 (s.pc.toNat + 1))).toNat = (0x5121 : Opcode).toNat % 256 ∧
     decode 0x5121 = .unrecognized 0x5121 ∧ (Instr.unrecognized 0x5121).wf = true) := by decide

theorem witness_RetPopsOrUnderflows :
    ((start []).setStack [0x206]).stack = [] ++ [0x206] ∧ (start []).stack = [] := by decide

/-- One place left, and none. -/
theorem witness_CallPushesOrOverflows :
    Config.stackDepth ≠ some ((start []).setStack (List.replicate 15 0x222)).stack.length ∧
    Config.stackDepth = some ((start []).setStack (List.replicate 16 0x222)).stack.length := by decide

theorem witness_ImmediateSkips :
    (start [(3, 0xFF)]).reg 3 = 0xFF ∧ (start [(3, 0xFE)]).reg 3 ≠ 0xFF := by decide

theorem witness_RegisterSkips :
    (start []).reg 1 = (start []).reg 15 ∧ (start [(15, 1)]).reg 1 ≠ (start [(15, 1)]).reg 15 ∧
    ((0x5121 : Opcode) &&& 0xF000 = 0x5000 ∧ (0x5121 : Opcode) &&& 0x000F ≠ 0) ∧
    ((0x9FFF : Opcode) &&& 0xF000 = 0x9000 ∧ (0x9FFF : Opcode) &&& 0x000F ≠ 0) := by decide

theorem witness_ReturnComesBackAfterCall :
    Config.stackDepth ≠ some (start []).stack.length ∧
    ∃ t, exec (.call 0x300) (start []) = .next t ∧ ((start [(4, 9)]).setStack [0x202]).stack = t.stack :=
  ⟨by decide, _, rfl, by decide⟩

/-- The sums 0xFF and 0x100; x apart from F. -/
theorem witness_AddSetsCarry :
    (1 : Reg) ≠ 15 ∧ ((start [(1, 0xFE), (2, 1)]).reg 1).toNat + ((start [(1, 0xFE), (2, 1)]).reg 2).toNat = 0xFF ∧
    ((start [(1, 0xFF), (2, 1)]).reg 1).toNat + ((start [(1, 0xFF), (2, 1)]).reg 2).toNat = 0x100 := by decide

/-- x apart from F, with a greater, an equal and a smaller minuend. -/
theorem witness_SubtractionsSetNotBorrow :
    (14 : Reg) ≠ 15 ∧ ((start [(14, 1)]).reg 14).toNat > ((start [(14, 1)]).reg 0).toNat ∧
    (start []).reg 14 = (start []).reg 0 ∧ ((start [(0, 1)]).reg 14).toNat < ((start [(0, 1)]).reg 0).toNat := by decide

theorem witness_ShiftsPutBitShiftedOutInVF : (0 : Reg) ≠ 15 := by decide

theorem witness_RandomIsMaskedSample : (0x00 : Byte) = 0 := by decide

/-- Three bytes across the top of memory. -/
theorem witness_DecimalDigitsStored :
    ((start [(1, 0xFF)]).setI 0xFFF).mem.wf = true ∧ ((start [(1, 0xFF)]).setI 0xFFF).indexed 1 = 0x000 := by decide

theorem witness_RegistersStored :
    (poke (start [(0, 7)]) 0x300 [9]).mem.wf = true ∧ (0 : Reg) ≤ 0 ∧ (15 : Reg) ≤ 15 := by decide

theorem witness_RegistersLoaded : (0 : Reg) ≤ 15 ∧ (15 : Reg) ≤ 15 := by decide

/-- The high byte of the next opcode, and its low byte, at the top of memory; of a register and of a digit. -/
theorem witness_StoredByteIsNextFetched :
    (let s := (start []).setI 0x202
     s.mem.wf = true ∧ (0 : Reg) ≤ 1 ∧ 0 < 3 ∧
     (∃ t, exec (.storeRegs 1) s = .next t ∧ s.indexed 0 = t.pc) ∧ ∃ t, exec (.ldB 1) s = .next t ∧ s.indexed 0 = t.pc) ∧
    (let s := ((start []).setI 0xFFE).setPc 0xFFD
     s.mem.wf = true ∧ (2 : Reg) ≤ 15 ∧ 2 < 3 ∧
     (∃ t, exec (.storeRegs 15) s = .next t ∧ (s.indexed 2).toNat = (t.pc.toNat + 1) % 0x1000) ∧
     ∃ t, exec (.ldB 15) s = .next t ∧ (s.indexed 2).toNat = (t.pc.toNat + 1) % 0x1000) :=
  ⟨⟨by decide, by decide, by decide, ⟨_, rfl, by decide⟩, _, rfl, by decide⟩,
    by decide, by decide, by decide, ⟨_, rfl, by decide⟩, _, rfl, by decide⟩

/-- A sprite bit on a true pixel; and a draw where there is none. -/
theorem witness_DrawXorsSpriteAndSetsCollision :
    (let s := (poke (lit (start []) [(31, 63)]) 0x210 [0x80]).setI 0x210
     ∃ r c, s.pixel r c = true ∧ spriteBit s 0xFF 0xFF 1 r c = true) ∧
    (let s := (poke (start []) 0x210 [0x80]).setI 0x210
     ¬ ∃ r c, s.pixel r c = true ∧ spriteBit s 0 0 1 r c = true) :=
  ⟨⟨31, 63, by decide, by decide⟩, fun ⟨r, c, h, _⟩ => Bool.noConfusion (h.symm.trans (Framebuffer.pixel_blank r c))⟩

/-- A first draw that lights a pixel without a collision; and one that lights none. -/
theorem witness_DrawTwiceRestoresDisplay :
    (0 : Reg) ≠ 15 ∧ (14 : Reg) ≠ 15 ∧
    (let s := (poke (start []) 0x210 [0x80]).setI 0x210
     (∃ r c, s.pixel r c = false ∧ spriteBit s (s.reg 0) (s.reg 14) (1 : Fin 16).val r c = true) ∧
     (∃ t, exec (.drw 0 14 1) s = .next t ∧ t.reg 15 = 0) ∧
     ∃ r, r < (1 : Fin 16).val ∧ s.readByte (s.indexed r) ≠ 0) ∧
    (¬ ∃ r c, (start []).pixel r c = false ∧
      spriteBit (start []) ((start []).reg 0) ((start []).reg 14) (0 : Fin 16).val r c = true) :=
  ⟨by decide, by decide, ⟨⟨0, 0, by decide, by decide⟩, ⟨_, rfl, by decide⟩, 0, by decide, by decide⟩,
    fun ⟨_, _, _, h⟩ => by simp [spriteBit] at h⟩

/-- Key 0xF is read from the sampled input, key 0x10 is a free answer; either way one of the skip's two cases holds. -/
theorem witness_KeySkipsFollowSample :
    ((start [(5, 0x0F)]).reg 5).toNat < 16 ∧ 16 ≤ ((start [(5, 0x10)]).reg 5).toNat ∧
    (KeyIsDown (start []) 0x0F ∨ ¬ KeyIsDown (start []) 0x0F) := ⟨by decide, by decide, Classical.em _⟩

theorem witness_UnrecognizedWordsAreNoOps :
    (∀ r ∈ opcodeRows, r.hits 0x0000 = false) ∧ (∀ r ∈ opcodeRows, r.hits 0xFFFF = false) := by decide

/-- ST at the edges of the three clauses. -/
theorem witness_TickCountsTimersAndSignalsTone :
    ((start []).setSt 0).st.toNat = 0 ∧ ((start []).setSt 1).st.toNat = 1 ∧ ((start []).setSt 2).st.toNat ≥ 2 ∧
    ((start []).setSt 0xFF).st.toNat ≥ 2 := by decide

/-- The burst used up; a waiting block; a faulted one. -/
theorem witness_TickEndsWithRedraw :
    ((start []).setBurst (some 0)).burst = some 0 ∧
    ((waitingBlock.setBurst (some 7)).burst = some 7 ∧ waitingBlock.waiting = true) ∧
    ((faultedBlock.setBurst (some 7)).burst = some 7 ∧ faultedBlock.fault ≠ .noFault) := by decide

theorem witness_KeyReleaseResolvesWait : waitingBlock.waiting = true ∧ (start []).waiting = false := by decide

/-- With no tick in between, and with two. -/
theorem witness_KeyWaitRoundTrip :
    ∀ m ∈ [0, 2],
      let s := (inTick (poke (start []) 0x200 [0xF3, 0x0A])).setEvents (List.replicate m .tick ++ [.keyRelease 0xA])
      s.burst = some (9 + 1) ∧ s.waiting = false ∧ s.fault = .noFault ∧ s.loadPhase = false ∧
      s.current = .ldVxK 3 ∧ s.events = List.replicate m .tick ++ [.keyRelease 0xA] := by decide

theorem witness_LoadPortWritesInLoadPhaseOnly :
    (start []).mem.wf = true ∧ (start []).loadPhase = true ∧ (start []).closeLoad.mem.wf = true ∧
    (start []).closeLoad.loadPhase = false := by decide

theorem witness_LoadedImageStandsAt200 :
    let s := (start []).setEvents (loadImage [0x12, 0x00] ++ [.tick])
    s.mem.wf = true ∧ s.loadPhase = true ∧ s.burst = none ∧ s.events = loadImage [0x12, 0x00] ++ [.tick] := by decide

/-- The end of a tick, and an instruction of one. -/
theorem witness_NoEventInsideTick :
    (∃ t, ((start []).setBurst (some 0)).burst = some 0 ∧ step ((start []).setBurst (some 0)) = .next t) ∧
    (∃ t, (inTick (start [])).burst = some 10 ∧ step (inTick (start [])) = .next t) :=
  ⟨⟨_, rfl, rfl⟩, ⟨_, rfl, rfl⟩⟩

theorem witness_StepFaultsOnlyAtRestWhenFaulted :
    faultedBlock.burst = none ∧ faultedBlock.events = [] ∧ faultedBlock.fault = .stackUnderflow ∧
    (faultedBlock.setFault .stackOverflow).fault = .stackOverflow := by decide

/-- A sound state whose two flags are clear. -/
theorem sound_of_clear {s : State} (hm : s.mem.wf = true) (hd : s.stack.length ≤ 16) (hw : s.waiting = false)
    (hl : s.loadPhase = false) : s.Sound where
  mem := hm
  depth d hc := by cases hc; exact hd
  exclusive h := by simp [hw] at h
  wait h := by simp [hw] at h
  load h := by simp [hl] at h

/-- A faulted block in a tick, and one that a reset event is about to clear. -/
theorem witness_FaultedBlockOnlyCountsAndRedraws :
    faultedBlock.Sound ∧ faultedBlock.fault ≠ .noFault ∧ (∃ t, step (faultedBlock.setEvents [.tick]) = .next t) ∧
    (faultedBlock.setEvents [.tick]).Sound ∧ (faultedBlock.setEvents [.reset]).Sound ∧
    (∃ t, step (faultedBlock.setEvents [.reset]) = .next t) :=
  ⟨sound_of_clear (by decide) (by decide) rfl rfl, by decide, ⟨_, rfl⟩, sound_of_clear (by decide) (by decide) rfl rfl,
    sound_of_clear (by decide) (by decide) rfl rfl, ⟨_, rfl⟩⟩

/-- The waiting block is sound. -/
theorem sound_waitingBlock (es : List Event) : (waitingBlock.setEvents es).Sound where
  mem := show waitingBlock.mem.wf = true by decide
  depth d hc := by cases hc; exact show waitingBlock.stack.length ≤ 16 by decide
  exclusive h := absurd rfl h.2
  wait _ := show waitingBlock.atKeyWait from ⟨by decide, by decide⟩
  load h := Bool.noConfusion h

/-- A waiting block at a tick, at a release and at a reset. -/
theorem witness_WaitingBlockOnlyCountsAndRedraws :
    ∀ e : Event, (waitingBlock.setEvents [e]).Sound ∧ (waitingBlock.setEvents [e]).waiting = true ∧
      ∃ t, step (waitingBlock.setEvents [e]) = .next t := fun e => ⟨sound_waitingBlock [e], rfl, ⟨_, rfl⟩⟩

/-- A waiting state and a state inside a tick. -/
theorem witness_StepKeepsSound :
    (waitingBlock.setEvents [.tick]).Sound ∧ (∃ t, step (waitingBlock.setEvents [.tick]) = .next t) ∧
    (inTick (start [])).Sound ∧ (∃ t, step (inTick (start [])) = .next t) :=
  ⟨sound_waitingBlock _, ⟨_, rfl⟩, sound_of_clear (by decide) (by decide) rfl rfl, ⟨_, rfl⟩⟩

theorem witness_StepKeepsMemoryCanonical :
    waitingBlock.mem = [(0x204, 0xF3), (0x205, 0x0A)] ∧ waitingBlock.mem.wf = true ∧
    ∃ t, step waitingBlock = .next t := ⟨by decide, by decide, _, rfl⟩

theorem witness_CanonicalMemoryIsDeterminedByItsBytes :
    let m : Memory := [(0x000, 0x11), (0xFFF, 0x22)]
    m.wf = true ∧ ∀ a : Addr, m.read a.toNat = m.read a.toNat := ⟨by decide, fun _ => rfl⟩

theorem witness_DelayTimerRead : ∀ x, Instr.ldVxDT 0 ≠ .ldDTVx x := by decide

/-- A clear and a reset that change the framebuffer; and a draw whose flag depends on it. -/
theorem witness_DisplayFlowsOnlyIntoCollisionFlag :
    (let s := inTick (poke (lit (start []) [(0, 0)]) 0x200 [0x00, 0xE0])
     ∃ t, step s = .next t ∧ t.fb ≠ s.fb ∧ s.burst = some (9 + 1) ∧ s.current = .cls) ∧
    (let s := (lit (start []) [(0, 0)]).setEvents [.reset]
     ∃ t, step s = .next t ∧ t.fb ≠ s.fb ∧ s.burst = none ∧ s.events = [.reset]) ∧
    (let s := inTick ((poke (start []) 0x200 [0xD0, 0x11, 0x80]).setI 0x202)
     let f := (lit (start []) [(0, 0)]).fb
     ∃ t u, step s = .next t ∧ step (s.setFb f) = .next u ∧ u.reg 15 ≠ t.reg 15 ∧ s.current = .drw 0 1 1) := by
  refine ⟨⟨_, rfl, ?_, by decide, by decide⟩, ⟨_, rfl, ?_, rfl, rfl⟩, _, _, rfl, rfl, by decide, by decide⟩ <;>
    exact fun h => absurd (congrArg (fun fb => Framebuffer.pixel fb 0 0) h) (by decide)

theorem witness_TimersAreSeenOnlyThroughFx07 : ∀ x, Instr.ldDTVx 0 ≠ .ldVxDT x := by decide

/-- A destination, and VF as a flag. -/
theorem witness_RegistersHaveTheirWriters :
    (∃ t, exec (.ldImm 3 7) (start []) = .next t ∧ t.reg 3 ≠ (start []).reg 3) ∧
    (∃ t, exec (.addReg 0 1) (start [(0, 0xFF), (1, 1)]) = .next t ∧
      t.reg 15 ≠ (start [(0, 0xFF), (1, 1)]).reg 15) := ⟨⟨_, rfl, by decide⟩, ⟨_, rfl, by decide⟩⟩

/-- Each element changed by an instruction of its row. -/
theorem witness_ElementsHaveTheirWriters :
    (∃ t, exec (.storeRegs 0) ((start [(0, 5)]).setI 0x300) = .next t ∧
      ∃ a, t.readByte a ≠ ((start [(0, 5)]).setI 0x300).readByte a) ∧
    (∃ t, exec (.ldI 0x300) (start []) = .next t ∧ t.i ≠ (start []).i) ∧
    (∃ t, exec (.call 0x300) (start []) = .next t ∧ t.stack ≠ (start []).stack) ∧
    (∃ t, exec .ret (start []) = .next t ∧ t.fault ≠ (start []).fault) ∧
    (∃ t, exec (.ldDTVx 0) (start [(0, 5)]) = .next t ∧ t.dt ≠ (start [(0, 5)]).dt) ∧
    (∃ t, exec (.ldSTVx 0) (start [(0, 5)]) = .next t ∧ t.st ≠ (start [(0, 5)]).st) ∧
    (∃ t, exec (.ldVxK 0) (start []) = .next t ∧ t.waiting ≠ (start []).waiting) ∧
    (∃ t, exec .cls (lit (start []) [(0, 0)]) = .next t ∧ t.fb ≠ (lit (start []) [(0, 0)]).fb) ∧
    (∃ t, exec (.rnd 0 0) (start []) = .next t ∧ t.draws ≠ (start []).draws) :=
  ⟨⟨_, rfl, 0x300, by decide⟩, ⟨_, rfl, by decide⟩, ⟨_, rfl, by decide⟩, ⟨_, rfl, by decide⟩, ⟨_, rfl, by decide⟩,
    ⟨_, rfl, by decide⟩, ⟨_, rfl, by decide⟩,
    ⟨_, rfl, fun h => absurd (congrArg (fun fb => Framebuffer.pixel fb 0 0) h) (by decide)⟩, ⟨_, rfl, by decide⟩⟩

end Sys2Proof.Tests
end

section
/-! The written-by column of 10_state.md R30 as a frame, the invariant of R47, and the proofs of the state family. -/

namespace Sys2Proof.Machine

open Sys2Proof.Claims

variable {s t : State} {i : Instr} {w : Part → Prop}

/-- The column "written by" of 10_state.md R30 for one part of the state: the instruction may change it. -/
def writtenBy (i : Instr) (p : Part) : Prop :=
  match p with
  | .byte _ => (∃ x, i = .ldB x) ∨ ∃ x, i = .storeRegs x
  | .reg r => names i r ∨ (r = VF ∧ setsFlag i = true)
  | .index => (∃ nnn, i = .ldI nnn) ∨ (∃ x, i = .addI x) ∨ ∃ x, i = .ldF x
  | .pc => ∀ x, i ≠ .ldVxK x
  | .stack | .fault => (∃ nnn, i = .call nnn) ∨ i = .ret
  | .dt => ∃ x, i = .ldDTVx x
  | .st => ∃ x, i = .ldSTVx x
  | .display => i = .cls ∨ ∃ x y n, i = .drw x y n
  | .waiting => ∃ x, i = .ldVxK x
  | .draws => (∃ x kk, i = .rnd x kk) ∨ (∃ x, i = .skp x) ∨ ∃ x, i = .sknp x
  | .loadPhase | .events | .burst | .outputs => False

/-- Every part outside a set of parts reads the same in both states: `UnchangedExcept ws` is `Keeps (· ∈ ws)`. -/
def Keeps (w : Part → Prop) (s t : State) : Prop := ∀ p : Part, ¬ w p → p.same s t

theorem Keeps.refl (w : Part → Prop) (s : State) : Keeps w s s := fun p _ => by cases p <;> rfl

/-! Each primitive extends a frame that allows what it writes. -/

theorem Keeps.setPc (h : Keeps w s t) (hw : w .pc) (a : Addr) : Keeps w s (t.setPc a) := fun p hp => by
  cases p with
  | pc => exact absurd hw hp
  | _ => exact h _ hp

theorem Keeps.setI (h : Keeps w s t) (hw : w .index) (a : Addr) : Keeps w s (t.setI a) := fun p hp => by
  cases p with
  | index => exact absurd hw hp
  | _ => exact h _ hp

theorem Keeps.setDt (h : Keeps w s t) (hw : w .dt) (b : Byte) : Keeps w s (t.setDt b) := fun p hp => by
  cases p with
  | dt => exact absurd hw hp
  | _ => exact h _ hp

theorem Keeps.setSt (h : Keeps w s t) (hw : w .st) (b : Byte) : Keeps w s (t.setSt b) := fun p hp => by
  cases p with
  | st => exact absurd hw hp
  | _ => exact h _ hp

theorem Keeps.setFb (h : Keeps w s t) (hw : w .display) (fb : Framebuffer) : Keeps w s (t.setFb fb) := fun p hp => by
  cases p with
  | display => exact absurd hw hp
  | _ => exact h _ hp

theorem Keeps.setWaiting (h : Keeps w s t) (hw : w .waiting) (b : Bool) : Keeps w s (t.setWaiting b) := fun p hp => by
  cases p with
  | waiting => exact absurd hw hp
  | _ => exact h _ hp

theorem Keeps.setStack (h : Keeps w s t) (hw : w .stack) (l : List Addr) : Keeps w s (t.setStack l) := fun p hp => by
  cases p with
  | stack => exact absurd hw hp
  | _ => exact h _ hp

theorem Keeps.setFault (h : Keeps w s t) (hw : w .fault) (f : FaultReg) : Keeps w s (t.setFault f) := fun p hp => by
  cases p with
  | fault => exact absurd hw hp
  | _ => exact h _ hp

theorem Keeps.countDraw (h : Keeps w s t) (hw : w .draws) : Keeps w s t.countDraw := fun p hp => by
  cases p with
  | draws => exact absurd hw hp
  | _ => exact h _ hp

/-- In a memory that is not canonical a store may change the reading of other addresses, so any byte may change. -/
theorem Keeps.writeByte (h : Keeps w s t) (hw : ∀ p, w (.byte p)) (a : Addr) (b : Byte) : Keeps w s (t.writeByte a b) :=
  fun p hp => by
  cases p with
  | byte q => exact absurd (hw q) hp
  | _ => exact h _ hp

theorem Keeps.setReg {x : Reg} (h : Keeps w s t) (hw : w (.reg x)) (b : Byte) : Keeps w s (t.setReg x b) := fun p hp => by
  cases p with
  | reg r =>
    have hr : r ≠ x := fun e => hp (e ▸ hw)
    exact (t.reg_setReg x b r).trans ((if_neg hr).trans (h _ hp))
  | _ => exact h _ hp

theorem Keeps.setResult {x : Reg} (h : Keeps w s t) (hx : w (.reg x)) (hf : w (.reg VF)) (b : Byte) (f : Bool) :
    Keeps w s (t.setResult x b f) := (h.setReg hx b).setReg hf _

theorem Keeps.storeRange (h : Keeps w s t) (hw : ∀ p, w (.byte p)) (n : Nat) : Keeps w s (t.storeRange n) := by
  induction n with
  | zero => exact h
  | succ n ih => rw [State.storeRange_succ]; exact ih.writeByte hw _ _

theorem Keeps.loadRange (h : Keeps w s t) {n : Nat} (hw : ∀ k < n, w (.reg (regOf k))) : Keeps w s (t.loadRange n) := by
  induction n with
  | zero => exact h
  | succ n ih =>
    rw [State.loadRange_succ]
    exact (ih fun k hk => hw k (by omega)).setReg (hw n (by omega)) _

/-- 2nnn faults on a full stack and otherwise pushes and jumps (40_control_flow.md R133). -/
theorem exec_call_cases {nnn : Addr} (h : exec (.call nnn) s = .next t) :
    (Config.stackDepth = some s.stack.length ∧ t = s.setFault .stackOverflow) ∨
    (Config.stackDepth ≠ some s.stack.length ∧ t = (s.setStack (s.stack ++ [s.next])).setPc nnn) := by
  obtain rfl := Host.Outcome.next.inj h
  exact s.push_cases Config.stackDepth s.next fun t => t.setPc nnn

/-- 00EE faults on an empty stack and otherwise pops into PC (40_control_flow.md R131). -/
theorem exec_ret_cases (h : exec .ret s = .next t) :
    (s.stack = [] ∧ t = s.setFault .stackUnderflow) ∨
    (∃ a l, s.stack = l ++ [a] ∧ t = (s.setStack l).setPc a) := by
  obtain rfl := Host.Outcome.next.inj h
  exact s.pop_cases fun a t => t.setPc a

/-- The registers of a transfer of V0..Vx are those up to x. -/
theorem regOf_le {x : Reg} {k : Nat} (hk : k < x.val + 1) : regOf k ≤ x := by
  have hmod : (regOf k).val = k := by simp [regOf]; omega
  exact Fin.le_def.2 (by omega)

/-- An instruction changes only what the written-by column gives it (10_state.md R30). -/
theorem exec_keeps (h : exec i s = .next t) : Keeps (writtenBy i) s t := by
  have start : Keeps (writtenBy i) s s := .refl _ s
  cases i with
  | jp | jpV0 | seImm | sneImm | seReg | sneReg | unrecognized => cases h; exact start.setPc nofun _
  | skp x => cases h; exact (start.setPc nofun _).countDraw (.inr (.inl ⟨x, rfl⟩))
  | sknp x => cases h; exact (start.setPc nofun _).countDraw (.inr (.inr ⟨x, rfl⟩))
  | ldImm | addImm | ldReg | orReg | andReg | xorReg | ldVxDT =>
    cases h; exact (start.setReg (.inl rfl) _).setPc nofun _
  | rnd x kk => cases h; exact ((start.setReg (.inl rfl) _).setPc nofun _).countDraw (.inl ⟨x, kk, rfl⟩)
  | addReg | sub | shr | subn | shl =>
    cases h; exact (start.setResult (.inl rfl) (.inr ⟨rfl, rfl⟩) _ _).setPc nofun _
  | cls => cases h; exact (start.setFb (.inl rfl) _).setPc nofun _
  | drw x y n =>
    cases h; exact ((start.setFb (.inr ⟨x, y, n, rfl⟩) _).setReg (.inr ⟨rfl, rfl⟩) _).setPc nofun _
  | ldI nnn => cases h; exact (start.setI (.inl ⟨nnn, rfl⟩) _).setPc nofun _
  | addI x => cases h; exact (start.setI (.inr (.inl ⟨x, rfl⟩)) _).setPc nofun _
  | ldF x => cases h; exact (start.setI (.inr (.inr ⟨x, rfl⟩)) _).setPc nofun _
  | ldDTVx x => cases h; exact (start.setDt ⟨x, rfl⟩ _).setPc nofun _
  | ldSTVx x => cases h; exact (start.setSt ⟨x, rfl⟩ _).setPc nofun _
  | ldVxK x => cases h; exact start.setWaiting ⟨x, rfl⟩ _
  | ldB x =>
    have hw : ∀ p, writtenBy (.ldB x) (.byte p) := fun _ => .inl ⟨x, rfl⟩
    cases h
    exact (((start.writeByte hw _ _).writeByte hw _ _).writeByte hw _ _).setPc nofun _
  | storeRegs x => cases h; exact (start.storeRange (fun _ => .inr ⟨x, rfl⟩) _).setPc nofun _
  | loadRegs x => cases h; exact (start.loadRange fun _ hk => .inl (regOf_le hk)).setPc nofun _
  | call nnn =>
    obtain ⟨-, rfl⟩ | ⟨-, rfl⟩ := exec_call_cases h
    · exact start.setFault (.inl ⟨nnn, rfl⟩) _
    · exact (start.setStack (.inl ⟨nnn, rfl⟩) _).setPc nofun _
  | ret =>
    obtain ⟨-, rfl⟩ | ⟨a, l, -, rfl⟩ := exec_ret_cases h
    · exact start.setFault (.inr rfl) _
    · exact (start.setStack (.inr rfl) _).setPc nofun _

/-- A part that an instruction changes is in the written-by column. -/
theorem writtenBy_of_changed {p : Part} (h : exec i s = .next t) (hne : ¬ p.same s t) : writtenBy i p :=
  not_not.1 fun hw => hne (exec_keeps h p hw)

/-! ## The invariant of R47 under an instruction -/

/-- An instruction keeps the canonical form of memory (20_memory.md R70). -/
theorem exec_keeps_wf (h : exec i s = .next t) (hm : s.mem.wf = true) : t.mem.wf = true := by
  cases i with
  | ldB x => cases h; exact State.wf_writeByte _ _ (State.wf_writeByte _ _ (State.wf_writeByte _ _ hm))
  | storeRegs x => cases h; exact State.wf_storeRange _ hm
  | loadRegs x =>
    have hmem : (s.loadRange (x.val + 1)).mem = s.mem := by
      obtain ⟨v, e⟩ := s.loadRange_eq (x.val + 1)
      rw [e]
    cases h
    exact hmem ▸ hm
  | call nnn => obtain ⟨-, rfl⟩ | ⟨-, rfl⟩ := exec_call_cases h <;> exact hm
  | ret => obtain ⟨-, rfl⟩ | ⟨a, l, -, rfl⟩ := exec_ret_cases h <;> exact hm
  | _ => cases h; exact hm

/-- An instruction keeps the stack within its bound: only a push below the bound makes it longer (10_state.md R47 (b)). -/
theorem exec_keeps_depth {d : Nat} (h : exec i s = .next t) (hc : Config.stackDepth = some d)
    (hd : s.stack.length ≤ d) : t.stack.length ≤ d := by
  by_cases hw : writtenBy i .stack
  · obtain ⟨nnn, rfl⟩ | rfl := hw
    · obtain ⟨-, rfl⟩ | ⟨hfull, rfl⟩ := exec_call_cases h
      · exact hd
      · have hne : d ≠ s.stack.length := fun e => hfull (e ▸ hc)
        simp only [State.setPc_stack, State.setStack_stack, List.length_append, List.length_singleton]
        omega
    · obtain ⟨-, rfl⟩ | ⟨a, l, hl, rfl⟩ := exec_ret_cases h
      · exact hd
      · simp only [hl, List.length_append] at hd
        exact Nat.le_of_add_right_le hd
  · exact (exec_keeps h .stack hw : t.stack = s.stack) ▸ hd

/-- Only Fx0A, byte by byte, decodes to an entry into the key wait (30_encoding.md R105). -/
theorem fields_of_decode_eq_ldVxK {op : Opcode} {x : Reg} (h : decode op = .ldVxK x) :
    (fieldO op).toNat = 0xF ∧ (fieldKK op).toNat = 0x0A := by
  -- the arms of `decode` by major opcode: `h_16` is 0xF, and the other arms that branch again hold no Fx0A
  unfold decode decode0 decode8 decodeE decodeF at h
  split at h
  case h_16 ho =>
    split at h
    case h_2 hk => exact ⟨ho, hk⟩
    all_goals cases h
  case h_1 | h_6 | h_9 | h_10 | h_15 => split at h <;> cases h
  all_goals cases h

/-- A state whose instruction is an Fx0A stands at a key wait (10_state.md R47 (d)). -/
theorem State.atKeyWait_of_current {x : Reg} (h : s.current = .ldVxK x) : s.atKeyWait := by
  obtain ⟨ho, hk⟩ := fields_of_decode_eq_ldVxK h
  rw [fieldO_toNat, State.fetch, opcodeOfBytes_toNat] at ho
  rw [fieldKK_toNat, State.fetch, opcodeOfBytes_toNat] at hk
  refine ⟨by omega, BitVec.eq_of_toNat_eq ?_⟩
  have := (s.readByte (mask12 (s.pc.toNat + 1))).isLt
  change (s.readByte (mask12 (s.pc.toNat + 1))).toNat = 0x0A
  omega

/-- A state that does not wait is sound when the clauses about memory, the stack and the load phase hold. -/
theorem State.Sound.of_not_waiting (hm : t.mem.wf = true) (hd : ∀ d, Config.stackDepth = some d → t.stack.length ≤ d)
    (hw : t.waiting = false) (hl : t.loadPhase = true → t.fault = .noFault ∧ t.burst = none) : t.Sound where
  mem := hm
  depth := hd
  exclusive h := by simp [hw] at h
  wait h := by simp [hw] at h
  load h := ⟨hw, hl h⟩

/-- Soundness looks only at these parts, and reopens the load phase nowhere. -/
theorem State.Sound.congr (hs : s.Sound) (hm : t.mem = s.mem) (hd : t.stack = s.stack) (hpc : t.pc = s.pc)
    (hw : t.waiting = s.waiting) (hf : t.fault = s.fault)
    (hl : t.loadPhase = true → s.loadPhase = true ∧ t.burst = none) : t.Sound where
  mem := hm ▸ hs.mem
  depth := hd ▸ hs.depth
  exclusive := hw ▸ hf ▸ hs.exclusive
  wait h := by
    have := hs.wait (hw ▸ h)
    simpa [State.atKeyWait, State.readByte, hm, hpc] using this
  load h := by
    obtain ⟨hsl, hb⟩ := hl h
    obtain ⟨hsw, hsf, -⟩ := hs.load hsl
    exact ⟨hw.trans hsw, hf.trans hsf, hb⟩

/-- The reset state is sound. -/
theorem State.sound_reset : State.reset.Sound :=
  .of_not_waiting State.wf_reset (fun _ _ => Nat.zero_le _) rfl fun _ => ⟨rfl, rfl⟩

/-- An instruction that runs in a sound state leaves a sound state: one that enters the key wait is the Fx0A at PC. -/
theorem exec_current_keeps_sound {b : Option Nat} (hs : s.Sound) (hc : s.canStep = true) (hl : s.loadPhase = false)
    (h : exec s.current (s.setBurst b) = .next t) : t.Sound := by
  obtain ⟨hw, hf⟩ := s.canStep_iff.1 hc
  obtain ⟨-, -, hload, -⟩ := exec_host _ h
  have closed : t.loadPhase = true → t.fault = .noFault ∧ t.burst = none := fun e => by
    simp [hload, hl] at e
  by_cases hk : writtenBy s.current .waiting
  · obtain ⟨x, hx⟩ := hk
    rw [hx] at h
    cases h
    exact {
      mem := hs.mem
      depth := hs.depth
      exclusive := fun e => e.2 hf
      wait := fun _ => State.atKeyWait_of_current hx
      load := fun e => by simp [hl] at e }
  · have hwait : t.waiting = s.waiting := exec_keeps h .waiting hk
    exact .of_not_waiting (exec_keeps_wf h hs.mem) (fun d hd => exec_keeps_depth h hd (hs.depth d hd))
      (hwait.trans hw) closed

/-! ## The invariant of R47 under an event -/

/-- Every event keeps the invariant (60_exceptions.md R300). -/
theorem State.deliver_keeps_sound (hs : s.Sound) (hb : s.burst = none) (e : Event) : (State.deliver e s).Sound := by
  cases e with
  | reset =>
    change (s.resetEvent Config.font).Sound
    rw [State.resetEvent_font]
    exact State.sound_reset.congr rfl rfl rfl rfl rfl fun _ => ⟨rfl, rfl⟩
  | load a b =>
    change (s.loadEvent a b).Sound
    unfold State.loadEvent
    split
    · next hl =>
      obtain ⟨hw, hf, -⟩ := hs.load hl
      exact .of_not_waiting (State.wf_writeByte a b hs.mem) hs.depth hw fun _ => ⟨hf, hb⟩
    · exact hs
  | tick => exact hs.congr rfl rfl rfl rfl rfl nofun
  | keyRelease k =>
    change (s.keyReleaseEvent k).Sound
    unfold State.keyReleaseEvent
    split
    · exact .of_not_waiting hs.mem hs.depth rfl nofun
    · exact hs.congr rfl rfl rfl rfl rfl nofun
  | repaint => exact hs.congr rfl rfl rfl rfl rfl nofun

/-- Every step keeps the invariant: at rest, at an event, at the end of a tick, at an instruction of a burst. -/
theorem step_keeps_sound (hs : s.Sound) (h : step s = .next t) : t.Sound := by
  obtain ⟨-, -, hm⟩ | ⟨e, es, hb, -, hm⟩ | ⟨k, hb, -, hm⟩ | ⟨k, hb, hc, hm⟩ := s.move_cases
  · have ht := hm.symm.trans h
    unfold State.atRest at ht
    split at ht <;> cases ht
    exact hs
  · cases hm.symm.trans h
    have queued : (s.setEvents es).Sound := hs.congr rfl rfl rfl rfl rfl fun e => ⟨e, hb⟩
    exact State.deliver_keeps_sound queued hb e
  · cases hm.symm.trans h
    exact hs.congr rfl rfl rfl rfl rfl fun e => ⟨e, rfl⟩
  · have hl : s.loadPhase = false := Bool.eq_false_iff.2 fun e => by
      obtain ⟨-, -, hnone⟩ := hs.load e
      simp [hb] at hnone
    exact exec_current_keeps_sound hs hc hl (hm.symm.trans h)

/-! ## The reset values of R46 -/

/-- The reset state of every FONT holds the reset values. -/
theorem State.atResetValues_resetWith (font : Vector Byte 80) : AtResetValues font (State.resetWith font) where
  memory := State.readByte_resetWith font
  regs r := by simp [State.reg, State.resetWith, State.reset]
  index := rfl
  pc := rfl
  stack := rfl
  timers := ⟨rfl, rfl⟩
  display := Framebuffer.pixel_blank
  waiting := rfl
  fault := rfl

end Sys2Proof.Machine

namespace Sys2Proof.Proofs

open Sys2Proof.Machine

/-! ## The obligations of the family -/

/-- Settles O52: `step_keeps_sound`, by what a move can be. -/
theorem stepKeepsSound : Obligations.StepKeepsSound := fun _ _ => step_keeps_sound

/-- Settles O57: the registers' row of the written-by column. -/
theorem registersHaveTheirWriters : Obligations.RegistersHaveTheirWriters :=
  fun _ _ _ r h hne => writtenBy_of_changed (p := .reg r) h hne

/-- Settles O58: the other rows of the written-by column, and `exec_host` for the host's side. -/
theorem elementsHaveTheirWriters : Obligations.ElementsHaveTheirWriters := by
  intro i s t h
  have row (p : Part) : ¬ p.same s t → writtenBy i p := writtenBy_of_changed h
  obtain ⟨hevents, hburst, hload, houtputs⟩ := exec_host i h
  exact ⟨fun ⟨a, ha⟩ => row (.byte a) ha, row .index, fun hne => hne.elim (row .stack) (row .fault), row .dt, row .st,
    row .waiting, row .display, row .draws, hload, hevents, hburst, houtputs⟩

/-- Settles O1: for every FONT, the default FONT among them. -/
theorem resetStateHoldsResetValues : Obligations.ResetStateHoldsResetValues :=
  ⟨fun font => ⟨State.atResetValues_resetWith font, State.wf_resetWith font⟩, State.resetWith_font,
    State.resetWith_font ▸ State.atResetValues_resetWith Config.font⟩

/-- Settles O51. -/
theorem resetStateIsSound : Obligations.ResetStateIsSound := State.sound_reset

end Sys2Proof.Proofs
end

section
/-! Events and loads as steps, the bytes a fetch reads, the canonical form of memory under every step and as a unique
representation, and the proofs of the memory family (20_memory.md). -/

namespace Sys2Proof.Machine

open Sys2Proof.Claims

variable {s t : State} {w : Part → Prop}

/-! ## An event as a step -/

/-- Between events a step delivers the oldest pending event (60_exceptions.md R300). -/
theorem step_of_event {e : Event} {rest : List Event} (hb : s.burst = none) (he : s.events = e :: rest) :
    step s = .next (State.deliver e (s.setEvents rest)) := by
  unfold step State.move State.nextEvent
  rw [hb, he]

/-- The step from a state between events, with the event it delivers named. -/
theorem step_withEvent (s : State) (e : Event) (rest : List Event) :
    step (withEvent s e rest) = .next (State.deliver e ((s.setBurst none).setEvents rest)) := step_of_event rfl rfl

/-- In the load phase a load event is a store (20_memory.md R86). -/
theorem State.deliver_load_of_open (hl : s.loadPhase = true) (a : Addr) (b : Byte) :
    State.deliver (.load a b) s = s.writeByte a b := if_pos hl

/-- After the load phase a load event does nothing (20_memory.md R86, decision D32). -/
theorem State.deliver_load_of_closed (hl : s.loadPhase = false) (a : Addr) (b : Byte) :
    State.deliver (.load a b) s = s := if_neg (by simp [hl])

/-! ## Frames of a store and of the event queue -/

/-- A store in a memory in canonical form reads back. -/
theorem State.readByte_writeByte_same (hm : s.mem.wf = true) (a : Addr) (b : Byte) : (s.writeByte a b).readByte a = b :=
  (State.readByte_writeByte hm a b a).trans (if_pos rfl)

/-- In a memory in canonical form a store extends a frame that allows its one byte. -/
theorem Keeps.writeByte_of_wf {a : Addr} (h : Keeps w s t) (hm : t.mem.wf = true) (hw : w (.byte a)) (b : Byte) :
    Keeps w s (t.writeByte a b) := fun p hp => by
  cases p with
  | byte q =>
    have hq : q ≠ a := fun e => hp (e ▸ hw)
    exact (State.readByte_writeByte hm a b q).trans ((if_neg hq).trans (h _ hp))
  | _ => exact h _ hp

theorem Keeps.setEvents (h : Keeps w s t) (hw : w .events) (es : List Event) : Keeps w s (t.setEvents es) :=
  fun p hp => by
  cases p with
  | events => exact absurd hw hp
  | _ => exact h _ hp

/-! ## The canonical form under every step -/

/-- Every event keeps the canonical form of memory: a reset starts from a canonical one, only a load writes. -/
theorem State.deliver_keeps_wf (hm : s.mem.wf = true) (e : Event) : (State.deliver e s).mem.wf = true := by
  cases e with
  | reset => exact State.wf_resetWith Config.font
  | load a b =>
    cases hl : s.loadPhase with
    | true => rw [State.deliver_load_of_open hl]; exact State.wf_writeByte a b hm
    | false => rw [State.deliver_load_of_closed hl]; exact hm
  | keyRelease k =>
    change (s.keyReleaseEvent k).mem.wf = true
    unfold State.keyReleaseEvent
    split <;> exact hm
  | tick | repaint => exact hm

/-- Every step keeps the canonical form of memory (20_memory.md R70). -/
theorem step_keeps_wf (hm : s.mem.wf = true) (h : step s = .next t) : t.mem.wf = true := by
  obtain ⟨-, -, hmove⟩ | ⟨e, es, -, -, hmove⟩ | ⟨k, -, -, hmove⟩ | ⟨k, -, -, hmove⟩ := s.move_cases
  · have ht := hmove.symm.trans h
    unfold State.atRest at ht
    split at ht <;> cases ht
    exact hm
  · cases hmove.symm.trans h
    exact State.deliver_keeps_wf (s := s.setEvents es) hm e
  · cases hmove.symm.trans h
    exact hm
  · exact exec_keeps_wf (s := s.setBurst (some k)) (hmove.symm.trans h) hm

/-! ## The canonical form as a unique representation -/

/-- What the canonical form says of a memory's first cell and of the rest. -/
theorem Memory.wfAbove_cell {bound k : Nat} {b : Byte} {rest : Memory} :
    wfAbove bound ((k, b) :: rest) = true ↔
      bound ≤ k ∧ k < 4096 ∧ b ≠ unlisted k ∧ rest.wfAbove (k + 1) = true := by
  simp [wfAbove, and_assoc]

@[simp] theorem Memory.read_cell (k : Nat) (b : Byte) (rest : Memory) : read ((k, b) :: rest) k = b := if_pos rfl

theorem Memory.read_cell_ne {k a : Nat} (hne : k ≠ a) (b : Byte) (rest : Memory) :
    read ((k, b) :: rest) a = rest.read a := if_neg hne

/-- A canonical memory that reads a byte other than the unlisted one has its first cell at or below that address. -/
theorem Memory.exists_cell_le {bound a : Nat} {m : Memory} (h : m.wfAbove bound = true) (ha : m.read a ≠ unlisted a) :
    ∃ k b rest, m = (k, b) :: rest ∧ k ≤ a := by
  cases m with
  | nil => exact absurd rfl ha
  | cons cell rest =>
    obtain ⟨k, b⟩ := cell
    refine ⟨k, b, rest, rfl, Nat.not_lt.1 fun hlt => ha ?_⟩
    obtain ⟨-, hk, hb, hrest⟩ := wfAbove_cell.1 h
    exact read_of_lt (wfAbove_cell.2 ⟨le_refl k, hk, hb, hrest⟩) hlt

/-- Canonical memories that read the same everywhere are equal: each has its first cell at or below the other's. -/
theorem Memory.eq_of_read_eq {bound : Nat} {m n : Memory} (hm : m.wfAbove bound = true) (hn : n.wfAbove bound = true)
    (h : ∀ a < 4096, m.read a = n.read a) : m = n := by
  induction m generalizing bound n with
  | nil =>
    cases n with
    | nil => rfl
    | cons cell rest =>
      obtain ⟨-, hk, hb, -⟩ := wfAbove_cell.1 hn
      exact absurd ((h _ hk).trans (read_cell ..)) hb.symm
  | cons cell rest ih =>
    obtain ⟨k, b⟩ := cell
    obtain ⟨-, hk, hb, hrest⟩ := wfAbove_cell.1 hm
    obtain ⟨k', b', rest', rfl, hle⟩ := exists_cell_le (a := k) hn (by rwa [← h k hk, read_cell])
    obtain ⟨-, hk', hb', hrest'⟩ := wfAbove_cell.1 hn
    obtain ⟨_, _, _, hcell, hge⟩ := exists_cell_le (a := k') hm (by rwa [h k' hk', read_cell])
    cases hcell
    obtain rfl : k = k' := Nat.le_antisymm hge hle
    obtain rfl : b = b' := by simpa using h k hk
    congr 1
    refine ih hrest hrest' fun a ha => ?_
    by_cases hak : k = a
    · rw [read_of_lt hrest (by omega), read_of_lt hrest' (by omega)]
    · simpa only [read_cell_ne hak] using h a ha

/-! ## The bytes a fetch reads -/

/-- The high byte of the opcode fetched is the byte at PC (20_memory.md R73). -/
theorem State.fetch_high (t : State) : t.fetch.toNat / 256 = (t.readByte t.pc).toNat := by
  rw [State.fetch, opcodeOfBytes_toNat]
  have := (t.readByte (mask12 (t.pc.toNat + 1))).isLt
  omega

/-- The low byte of the opcode fetched is the byte at PC + 1, wrapped (20_memory.md R73). -/
theorem State.fetch_low (t : State) : t.fetch.toNat % 256 = (t.readByte (mask12 (t.pc.toNat + 1))).toNat := by
  rw [State.fetch, opcodeOfBytes_toNat]
  have := (t.readByte (mask12 (t.pc.toNat + 1))).isLt
  omega

/-- The byte that an address reads as is the byte fetched there. -/
theorem State.fetchedNext_readByte (t : State) (a : Addr) : FetchedNext t a (t.readByte a).toNat where
  left ha := by rw [ha]; exact t.fetch_high
  right ha := by
    have hlow : a = mask12 (t.pc.toNat + 1) := BitVec.eq_of_toNat_eq (ha.trans (mask12_toNat _).symm)
    rw [hlow]
    exact t.fetch_low

/-! ## The bytes that Fx33 and Fx55 store -/

theorem hundreds_toNat (b : Byte) : (hundreds b).toNat = decimalDigit b 0 := by
  simp only [hundreds, decimalDigit, BitVec.toNat_ofNat]
  omega

theorem tens_toNat (b : Byte) : (tens b).toNat = decimalDigit b 1 := by
  simp only [tens, decimalDigit, BitVec.toNat_ofNat]
  omega

theorem ones_toNat (b : Byte) : (ones b).toNat = decimalDigit b 2 := by
  simp only [ones, decimalDigit, BitVec.toNat_ofNat]
  omega

/-- After Fx33 the three addresses from I on hold the decimal digits of Vx (42_index_memory.md R203). -/
theorem exec_ldB_readByte {x : Reg} {k : Nat} (hm : s.mem.wf = true) (h : exec (.ldB x) s = .next t) (hk : k < 3) :
    (t.readByte (s.indexed k)).toNat = decimalDigit (s.reg x) k := by
  have hm₀ := State.wf_writeByte (s.indexed 0) (hundreds (s.reg x)) hm
  have hm₁ := State.wf_writeByte (s.indexed 1) (tens (s.reg x)) hm₀
  cases h
  rw [State.advance_readByte, State.readByte_writeByte hm₁, State.readByte_writeByte hm₀, State.readByte_writeByte hm]
  simp (disch := omega) only [s.indexed_inj]
  match k, hk with
  | 0, _ => exact hundreds_toNat _
  | 1, _ => exact tens_toNat _
  | 2, _ => exact ones_toNat _

/-- After Fx55 the addresses from I on hold V0..Vx (42_index_memory.md R204). -/
theorem exec_storeRegs_readByte {x r : Reg} (hm : s.mem.wf = true) (h : exec (.storeRegs x) s = .next t)
    (hr : r ≤ x) : t.readByte (s.indexed r.val) = s.reg r := by
  obtain ⟨inside, -⟩ := State.readByte_storeRange hm (n := x.val + 1) (by omega) (s.indexed r.val)
  cases h
  rw [State.advance_readByte, inside r.val (Nat.lt_succ_of_le hr) rfl, regOf_val]

/-! ## Loading an image -/

/-- The state with bytes placed from an address on and the events that come after them: what a load leaves. -/
def State.loaded (s : State) (base : Nat) (bytes : List Byte) (rest : List Event) : State :=
  { s with mem := s.mem.place base bytes, events := rest }

/-- One load event of an image in the load phase is one step, which places the first byte. -/
theorem step_loadEventsFrom {base : Nat} {b : Byte} {bytes : List Byte} {rest : List Event} (hl : s.loadPhase = true)
    (hb : s.burst = none) (he : s.events = loadEventsFrom base (b :: bytes) ++ rest) (hbase : base < 4096) :
    step s = .next (s.loaded base [b] (loadEventsFrom (base + 1) bytes ++ rest)) := by
  have haddr : (mask12 base).toNat = base := (mask12_toNat base).trans (Nat.mod_eq_of_lt hbase)
  refine (step_of_event hb he).trans (congrArg Host.Outcome.next ?_)
  rw [State.deliver_load_of_open (by exact hl), State.writeByte, haddr]
  rfl

/-- In the load phase the load events of an image that fits, run one step a byte, place its bytes. -/
theorem run_loadEventsFrom {base : Nat} {bytes : List Byte} {rest : List Event} (hl : s.loadPhase = true)
    (hb : s.burst = none) (he : s.events = loadEventsFrom base bytes ++ rest) (hfit : base + bytes.length ≤ 4096) :
    Host.Core.run Sys2Proof.core bytes.length s = .next (s.loaded base bytes rest) := by
  induction bytes generalizing s base with
  | nil =>
    have hrest : s.events = rest := he
    rw [← hrest]
    rfl
  | cons b bytes ih =>
    simp only [List.length_cons] at hfit
    rw [List.length_cons, run_of_step (step_loadEventsFrom hl hb he (by omega))]
    exact ih (s := s.loaded base [b] _) hl hb rfl (by omega)

/-- The bytes after a load that fits: the image's where it stands, the bytes before elsewhere. -/
theorem State.readByte_loaded {base : Nat} {bytes : List Byte} (rest : List Event) (a : Addr) (hm : s.mem.wf = true)
    (hfit : base + bytes.length ≤ 4096) :
    (s.loaded base bytes rest).readByte a =
      if h : base ≤ a.toNat ∧ a.toNat < base + bytes.length then bytes[a.toNat - base] else s.readByte a :=
  Memory.read_place a.toNat hm hfit

/-- A load writes memory and the event queue alone. -/
theorem State.same_loaded {base : Nat} {bytes : List Byte} {rest : List Event} {p : Part} (hbyte : ∀ a, p ≠ .byte a)
    (hevents : p ≠ .events) : p.same s (s.loaded base bytes rest) := by
  cases p with
  | byte a => exact absurd rfl (hbyte a)
  | events => exact absurd rfl hevents
  | _ => rfl

end Sys2Proof.Machine

namespace Sys2Proof.Proofs

open Sys2Proof.Machine

/-! ## The obligations of the memory family -/

/-- Settles O53: `step_keeps_wf`, by what a move can be. -/
theorem stepKeepsMemoryCanonical : Obligations.StepKeepsMemoryCanonical := fun _ _ => step_keeps_wf

/-- Settles O29: each stored byte is read back at its address, and a fetch at that address reads it. -/
theorem storedByteIsNextFetched : Obligations.StoredByteIsNextFetched := by
  constructor
  · intro s x k hm hk
    obtain ⟨t, h⟩ := exec_completes (.ldB x) s
    exact ⟨t, h, exec_ldB_readByte hm h hk ▸ t.fetchedNext_readByte _⟩
  · intro s x r hm hr
    obtain ⟨t, h⟩ := exec_completes (.storeRegs x) s
    exact ⟨t, h, exec_storeRegs_readByte hm h hr ▸ t.fetchedNext_readByte _⟩

/-- Settles O45: the steps place the first 0xE00 bytes (`run_loadEventsFrom`), and placed bytes are read back. -/
theorem loadedImageStandsAt200 : Obligations.LoadedImageStandsAt200 := by
  intro s image rest hm hl hb he
  have hlen : (image.take 0xE00).length = min image.length 0xE00 := by rw [List.length_take, Nat.min_comm]
  have hfit : 0x200 + (image.take 0xE00).length ≤ 4096 := by omega
  refine ⟨s.loaded 0x200 (image.take 0xE00) rest, hlen ▸ run_loadEventsFrom hl hb he hfit, rfl, fun j hj hE => ?_,
    fun a ha => ?_, fun p => State.same_loaded⟩
  · have haddr : (BitVec.ofNat 12 (0x200 + j)).toNat = 0x200 + j := by
      rw [BitVec.toNat_ofNat]
      omega
    rw [State.readByte_loaded rest _ hm hfit]
    simp only [haddr]
    rw [dif_pos (by omega)]
    simp
  · rw [State.readByte_loaded rest _ hm hfit, dif_neg (by omega)]

/-- Settles O54: the bound of `Memory.eq_of_read_eq` is 0, and every address below 0x1000 is an `Addr`. -/
theorem canonicalMemoryIsDeterminedByItsBytes : Obligations.CanonicalMemoryIsDeterminedByItsBytes := by
  intro m n hm hn h
  refine Memory.eq_of_read_eq hm hn fun a ha => ?_
  simpa [Nat.mod_eq_of_lt ha] using h (BitVec.ofNat 12 a)

/-- Settles O44: a load event is a store in the load phase and nothing after it. -/
theorem loadPortWritesInLoadPhaseOnly : Obligations.LoadPortWritesInLoadPhaseOnly := by
  intro s a b rest hm
  have frame {w : Part → Prop} (hw : w .events) : Keeps w (s.setBurst none) ((s.setBurst none).setEvents rest) :=
    (Keeps.refl w _).setEvents hw rest
  refine ⟨_, step_withEvent s (.load a b) rest, ?_⟩
  cases hl : s.loadPhase with
  | true =>
    rw [State.deliver_load_of_open (by exact hl)]
    refine ⟨rfl, fun _ => ⟨State.readByte_writeByte_same hm a b, ?_⟩, nofun⟩
    exact (frame (by simp)).writeByte_of_wf hm (by simp) b
  | false =>
    rw [State.deliver_load_of_closed (by exact hl)]
    exact ⟨rfl, nofun, fun _ => frame (by simp)⟩

end Sys2Proof.Proofs
end

section
/-! Decoding and encoding as inverses of each other, the rows a word can hit, and the proofs of the encoding family
(30_encoding.md). -/

namespace Sys2Proof

variable {op : Opcode}

/-! ## The fields of a packed word -/

section
variable (o : BitVec 4) (x y n : Fin 16) (kk : Byte) (nnn : Addr)

@[simp] theorem fieldO_packAddr : fieldO (packAddr o nnn) = o := by
  apply BitVec.eq_of_toNat_eq
  rw [fieldO_toNat, packAddr_toNat]
  omega

@[simp] theorem fieldNNN_packAddr : fieldNNN (packAddr o nnn) = nnn := by
  apply BitVec.eq_of_toNat_eq
  rw [fieldNNN_toNat, packAddr_toNat]
  omega

@[simp] theorem fieldO_packImm : fieldO (packImm o x kk) = o := by
  apply BitVec.eq_of_toNat_eq
  rw [fieldO_toNat, packImm_toNat]
  omega

@[simp] theorem fieldX_packImm : fieldX (packImm o x kk) = x := by
  apply Fin.ext
  rw [fieldX_val, packImm_toNat]
  omega

@[simp] theorem fieldKK_packImm : fieldKK (packImm o x kk) = kk := by
  apply BitVec.eq_of_toNat_eq
  rw [fieldKK_toNat, packImm_toNat]
  omega

@[simp] theorem fieldO_packNibbles : fieldO (packNibbles o x y n) = o := by
  apply BitVec.eq_of_toNat_eq
  rw [fieldO_toNat, packNibbles_toNat]
  omega

@[simp] theorem fieldX_packNibbles : fieldX (packNibbles o x y n) = x := by
  apply Fin.ext
  rw [fieldX_val, packNibbles_toNat]
  omega

@[simp] theorem fieldY_packNibbles : fieldY (packNibbles o x y n) = y := by
  apply Fin.ext
  rw [fieldY_val, packNibbles_toNat]
  omega

@[simp] theorem fieldN_packNibbles : fieldN (packNibbles o x y n) = n := by
  apply Fin.ext
  rw [fieldN_val, packNibbles_toNat]
  omega

end

/-! ## A word packed again from its fields -/

theorem packAddr_fields {o : BitVec 4} (ho : (fieldO op).toNat = o.toNat) : packAddr o (fieldNNN op) = op := by
  apply BitVec.eq_of_toNat_eq
  rw [packAddr_toNat, fieldNNN_toNat, ← ho, fieldO_toNat]
  omega

theorem packImm_fields {o : BitVec 4} {kk : Byte} (ho : (fieldO op).toNat = o.toNat)
    (hk : (fieldKK op).toNat = kk.toNat) : packImm o (fieldX op) kk = op := by
  apply BitVec.eq_of_toNat_eq
  rw [packImm_toNat, fieldX_val, ← hk, fieldKK_toNat, ← ho, fieldO_toNat]
  omega

theorem packNibbles_fields {o : BitVec 4} {n : Fin 16} (ho : (fieldO op).toNat = o.toNat)
    (hn : (fieldN op).val = n.val) : packNibbles o (fieldX op) (fieldY op) n = op := by
  apply BitVec.eq_of_toNat_eq
  rw [packNibbles_toNat, fieldX_val, fieldY_val, ← hn, fieldN_val, ← ho, fieldO_toNat]
  omega

/-! ## Encoding what was decoded, group by group -/

theorem encode_decode0 : encode (decode0 op) = op := by
  unfold decode0
  split
  case h_1 h | h_2 h => exact BitVec.eq_of_toNat_eq h.symm
  case h_3 => rfl

theorem encode_decode8 (ho : (fieldO op).toNat = 0x8) : encode (decode8 op) = op := by
  unfold decode8
  split
  case h_10 => rfl
  all_goals next hn => exact packNibbles_fields ho hn

theorem encode_decodeE (ho : (fieldO op).toNat = 0xE) : encode (decodeE op) = op := by
  unfold decodeE
  split
  case h_3 => rfl
  all_goals next hk => exact packImm_fields ho hk

theorem encode_decodeF (ho : (fieldO op).toNat = 0xF) : encode (decodeF op) = op := by
  unfold decodeF
  split
  case h_10 => rfl
  all_goals next hk => exact packImm_fields ho hk

/-- The arms of `decode` by major opcode: the groups, then the rows whose operand is an address, a byte, or nibbles. -/
theorem encode_decode (op : Opcode) : encode (decode op) = op := by
  unfold decode
  split
  case h_1 => exact encode_decode0
  case h_9 ho => exact encode_decode8 ho
  case h_15 ho => exact encode_decodeE ho
  case h_16 ho => exact encode_decodeF ho
  case h_2 ho | h_3 ho | h_11 ho | h_12 ho => exact packAddr_fields ho
  case h_4 ho | h_5 ho | h_7 ho | h_8 ho | h_13 ho => exact packImm_fields ho rfl
  case h_14 ho => exact packNibbles_fields ho rfl
  case h_6 ho | h_10 ho =>
    split
    · next hn => exact packNibbles_fields ho (congrArg Fin.val hn)
    · rfl
  case h_17 => rfl

/-! ## The unrecognized words -/

theorem decode0_eq_unrecognized_iff : decode0 op = .unrecognized op ↔ op.toNat ≠ 0x00E0 ∧ op.toNat ≠ 0x00EE := by
  unfold decode0
  split <;> simp_all

theorem decode8_eq_unrecognized_iff :
    decode8 op = .unrecognized op ↔ op.toNat % 16 ∈ [0x8, 0x9, 0xA, 0xB, 0xC, 0xD, 0xF] := by
  unfold decode8
  rw [← fieldN_val]
  split
  case h_10 =>
    simp only [imp_false] at *
    simp only [List.mem_cons, List.not_mem_nil, or_false, true_iff]
    omega
  all_goals next hn => simp [hn]

theorem decodeE_eq_unrecognized_iff : decodeE op = .unrecognized op ↔ op.toNat % 256 ∉ [0x9E, 0xA1] := by
  unfold decodeE
  rw [← fieldKK_toNat]
  split <;> simp_all

theorem decodeF_eq_unrecognized_iff :
    decodeF op = .unrecognized op ↔ op.toNat % 256 ∉ [0x07, 0x0A, 0x15, 0x18, 0x1E, 0x29, 0x33, 0x55, 0x65] := by
  unfold decodeF
  rw [← fieldKK_toNat]
  split <;> simp_all

/-- The words that decode to UNRECOGNIZED are those of the classes of 30_encoding.md R108. -/
theorem decode_eq_unrecognized_iff : decode op = .unrecognized op ↔ unrecognizedWord op = true := by
  unfold decode unrecognizedWord
  rw [← fieldO_toNat, ← fieldN_val, ← fieldKK_toNat]
  split
  case h_1 ho => simp [ho, decode0_eq_unrecognized_iff]
  case h_9 ho => simp [ho, decode8_eq_unrecognized_iff, fieldN_val]
  case h_15 ho => simp [ho, decodeE_eq_unrecognized_iff, fieldKK_toNat]
  case h_16 ho => simp [ho, decodeF_eq_unrecognized_iff, fieldKK_toNat]
  case h_6 ho | h_10 ho => simp [ho]
  case h_17 =>
    simp only [imp_false] at *
    have := (fieldO op).isLt
    omega
  all_goals next ho => simp [ho]

/-- An UNRECOGNIZED carries the word it is decoded from. -/
theorem eq_of_decode_unrecognized {w : Opcode} (h : decode op = .unrecognized w) : w = op := by
  have henc := encode_decode op
  rwa [h] at henc

/-- Every word decodes to a well-formed instruction: an UNRECOGNIZED carries the word itself, for it encodes to it. -/
theorem wf_decode (op : Opcode) : (decode op).wf = true := by
  cases hi : decode op with
  | unrecognized w =>
    obtain rfl := eq_of_decode_unrecognized hi
    exact decode_eq_unrecognized_iff.1 hi
  | _ => rfl

/-! ## Decoding what was encoded -/

theorem decode_encode {i : Instr} (h : i.wf = true) : decode (encode i) = i := by
  cases i with
  | cls | ret => rfl
  | jp | call | ldI | jpV0 => simp [encode, decode]
  | seImm | sneImm | ldImm | addImm | rnd => simp [encode, decode]
  | seReg | sneReg | drw => simp [encode, decode]
  | ldReg | orReg | andReg | xorReg | addReg | sub | shr | subn | shl => simp [encode, decode, decode8]
  | skp | sknp => simp [encode, decode, decodeE]
  | ldVxDT | ldVxK | ldDTVx | ldSTVx | addI | ldF | ldB | storeRegs | loadRegs => simp [encode, decode, decodeF]
  | unrecognized op => exact decode_eq_unrecognized_iff.2 h

/-! ## The rows of the opcode map -/

theorem OpcodeRow.hits_iff {r : OpcodeRow} : r.hits op = true ↔ op &&& r.mask = r.value := beq_iff_eq

/-- The word of an instruction hits the row of the instruction (30_encoding.md R105). -/
theorem Instr.row_hits_encode (i : Instr) : i.row.hits (encode i) = true := by
  rw [OpcodeRow.hits_iff]
  cases i with
  | cls | ret => rfl
  | jp | call | ldI | jpV0 => exact Laws.EncodingRow.of_addr rfl
  | seImm | sneImm | ldImm | addImm | rnd => exact Laws.EncodingRow.of_imm rfl
  | drw => exact Laws.EncodingRow.of_nibbles rfl
  | seReg | sneReg | ldReg | orReg | andReg | xorReg | addReg | sub | shr | subn | shl =>
    exact Laws.EncodingRow.of_nibblesLow rfl
  | unrecognized op => exact Laws.EncodingRow.unrecognized op
  | _ => exact Laws.EncodingRow.of_immLow rfl

theorem row_decode_hits (op : Opcode) : (decode op).row.hits op = true := by
  simpa only [encode_decode] using (decode op).row_hits_encode

/-- Every instruction but UNRECOGNIZED belongs to a row of the map. -/
theorem Instr.row_mem_opcodeRows {i : Instr} (h : ∀ op, i ≠ .unrecognized op) : i.row ∈ opcodeRows := by
  cases i with
  | unrecognized op => exact absurd rfl (h op)
  | _ => simp [Instr.row, opcodeRows, opcodeRowsLow, opcodeRowsHigh]

theorem Instr.row_unrecognized_not_mem (w : Opcode) : (Instr.unrecognized w).row ∉ opcodeRows := by
  change (⟨0x0000, 0x0000⟩ : OpcodeRow) ∉ opcodeRows
  decide

/-- The row a word decodes to is read off its literal digits: the major opcode, and as that says, the whole word, the
minor opcode or the low byte (30_encoding.md R104). -/
theorem row_decode_congr {a b : Opcode} (ho : a.toNat / 4096 = b.toNat / 4096)
    (hop : a.toNat / 4096 = 0 → a = b)
    (hn : a.toNat / 4096 = 5 ∨ a.toNat / 4096 = 8 ∨ a.toNat / 4096 = 9 → a.toNat % 16 = b.toNat % 16)
    (hk : 14 ≤ a.toNat / 4096 → a.toNat % 256 = b.toNat % 256) : (decode a).row = (decode b).row := by
  simp only [← fieldO_toNat, ← fieldN_val, ← fieldKK_toNat] at ho hop hn hk
  unfold decode
  rw [← ho]
  split
  case h_1 h => rw [hop h]
  case h_9 h =>
    unfold decode8
    rw [hn (by simp [h])]
    split <;> rfl
  case h_15 h =>
    unfold decodeE
    rw [hk (by simp [h])]
    split <;> rfl
  case h_16 h =>
    unfold decodeF
    rw [hk (by simp [h])]
    split <;> rfl
  case h_6 h | h_10 h =>
    rw [Fin.ext (hn (by simp [h]))]
    split <;> rfl
  all_goals rfl

/-- What the mask of each row keeps, by the major opcode of the row. -/
theorem mask_of_mem_opcodeRows : ∀ r ∈ opcodeRows,
    r.mask = 0xFFFF ∨ (r.mask = 0xF0FF ∧ 14 ≤ r.value.toNat / 4096) ∨
      (r.mask = 0xF00F ∧ r.value.toNat / 4096 ∈ [5, 8, 9]) ∨
      (r.mask = 0xF000 ∧ r.value.toNat / 4096 ∈ [1, 2, 3, 4, 6, 7, 10, 11, 12, 13]) := by
  decide

theorem row_decode_value : ∀ r ∈ opcodeRows, (decode r.value).row = r := by
  decide

/-- A word that hits a row of the map decodes to that row: the mask keeps the digits that `decode` looks at. -/
theorem row_decode_of_hits {r : OpcodeRow} (hr : r ∈ opcodeRows) (hit : r.hits op = true) : (decode op).row = r := by
  have hv := OpcodeRow.hits_iff.1 hit
  refine Eq.trans ?_ (row_decode_value r hr)
  obtain hm | ⟨hm, ho⟩ | ⟨hm, ho⟩ | ⟨hm, ho⟩ := mask_of_mem_opcodeRows r hr <;> rw [hm] at hv
  · rw [(and_FFFF op).symm.trans hv]
  · have hval := hv ▸ and_F0FF op
    apply row_decode_congr <;> omega
  · have hval := hv ▸ and_F00F op
    simp only [List.mem_cons, List.not_mem_nil, or_false] at ho
    apply row_decode_congr <;> omega
  · have hval := hv ▸ and_F000 op
    simp only [List.mem_cons, List.not_mem_nil, or_false] at ho
    apply row_decode_congr <;> omega

/-- A word that decodes to UNRECOGNIZED hits no row: the fallback row is none of the map's. -/
theorem not_hits_of_decode_unrecognized {w : Opcode} (h : decode op = .unrecognized w) :
    ∀ r ∈ opcodeRows, r.hits op = false := by
  intro r hr
  rw [← Bool.not_eq_true]
  intro hit
  have hrow := row_decode_of_hits hr hit
  rw [h] at hrow
  exact Instr.row_unrecognized_not_mem w (hrow ▸ hr)

end Sys2Proof

namespace Sys2Proof.Proofs

open Sys2Proof.Machine Sys2Proof.Claims

/-! ## The obligations of the encoding family -/

/-- Settles O4: `decode_encode`, by the fields of the packed words and, for UNRECOGNIZED, the classes of R108. -/
theorem decodeOfEncodeIsIdentity : Obligations.DecodeOfEncodeIsIdentity := fun _ => decode_encode

/-- Settles O5: `wf_decode` and `encode_decode`, by the arms of `decode`. -/
theorem encodeOfDecodeIsIdentity : Obligations.EncodeOfDecodeIsIdentity := fun op => ⟨wf_decode op, encode_decode op⟩

/-- Settles O6: each word is evaluated. -/
theorem specWordsDecode : Obligations.SpecWordsDecode :=
  ⟨rfl, rfl, rfl, rfl, rfl, rfl, rfl, rfl, rfl, rfl⟩

/-- Settles O3: a decoded word hits its instruction's row, which is the fallback row or the only one of the map. -/
theorem decodeFollowsOpcodeMap : Obligations.DecodeFollowsOpcodeMap := by
  intro op
  by_cases h : ∃ w, decode op = .unrecognized w
  · obtain ⟨w, hw⟩ := h
    exact .inr ⟨eq_of_decode_unrecognized hw ▸ hw, not_hits_of_decode_unrecognized hw⟩
  · have hmem := Instr.row_mem_opcodeRows fun w hw => h ⟨w, hw⟩
    exact .inl ⟨hmem, row_decode_hits op, fun r hr hit => (row_decode_of_hits hr hit).symm⟩

/-- Settles O38: the first clause is O3's, and the no-op writes PC alone. -/
theorem unrecognizedWordsAreNoOps : Obligations.UnrecognizedWordsAreNoOps := by
  refine ⟨fun op hno => ?_, rfl, fun s op => ⟨s.advance, rfl, s.next_toNat, ?_⟩⟩
  · obtain ⟨hmem, hit, -⟩ | ⟨h, -⟩ := decodeFollowsOpcodeMap op
    · exact absurd hit (by simp [hno _ hmem])
    · exact h
  · exact (Keeps.refl (· ∈ [Part.pc]) s).setPc (by simp) s.next

end Sys2Proof.Proofs
end

section
/-! Words read by their row's mask, the case of a call, a return or a skip as an equation, and the proofs of the
control-flow family (40_control_flow.md). -/

namespace Sys2Proof

open Sys2Proof.Claims

variable {op v : Opcode} {o : BitVec 4}

/-! ## The fields of a word, as the statements write them -/

theorem wordX_eq_fieldX (op : Opcode) : wordX op = fieldX op := Fin.ext (fieldX_val op).symm

theorem wordY_eq_fieldY (op : Opcode) : wordY op = fieldY op := Fin.ext (fieldY_val op).symm

/-! ## A word that hits a row is packed from its fields -/

theorem fieldO_of_and_F000 (h : op &&& 0xF000#16 = v) : (fieldO op).toNat = v.toNat / 4096 := by
  have hval := h ▸ and_F000 op
  rw [fieldO_toNat]
  omega

theorem fields_of_and_F00F (h : op &&& 0xF00F#16 = v) :
    (fieldO op).toNat = v.toNat / 4096 ∧ (fieldN op).val = v.toNat % 16 := by
  have hval := h ▸ and_F00F op
  rw [fieldO_toNat, fieldN_val]
  omega

theorem packAddr_word (h : op &&& 0xF000#16 = v) (ho : v.toNat / 4096 = o.toNat) : packAddr o (wordNNN op) = op :=
  packAddr_fields ((fieldO_of_and_F000 h).trans ho)

theorem packImm_word (h : op &&& 0xF000#16 = v) (ho : v.toNat / 4096 = o.toNat) :
    packImm o (wordX op) (wordKK op) = op :=
  wordX_eq_fieldX op ▸ packImm_fields ((fieldO_of_and_F000 h).trans ho) rfl

theorem packNibbles_word {n : Fin 16} (h : op &&& 0xF00F#16 = v) (ho : v.toNat / 4096 = o.toNat)
    (hn : v.toNat % 16 = n.val) : packNibbles o (wordX op) (wordY op) n = op := by
  obtain ⟨hop, hlow⟩ := fields_of_and_F00F h
  rw [wordX_eq_fieldX, wordY_eq_fieldY]
  exact packNibbles_fields (hop.trans ho) (hlow.trans hn)

/-- A row whose words are the encodings of the row's instruction decodes to that instruction. -/
theorem encoded_of_encode {mask value : Opcode} {i : Opcode → Instr}
    (henc : ∀ op, op &&& mask = value → encode (i op) = op) (hwf : ∀ op, (i op).wf = true) : Encoded mask value i :=
  fun op h => (congrArg decode (henc op h)).symm.trans (decode_encode (hwf op))

/-- 5xyN and 9xyN with N other than 0 are unrecognized (30_encoding.md R108, decision D9). -/
theorem unrecognizedWord_of_low_nibble (ho : op.toNat / 4096 = 5 ∨ op.toNat / 4096 = 9) (hn : op.toNat % 16 ≠ 0) :
    unrecognizedWord op = true := by
  obtain ho | ho := ho <;> simp [unrecognizedWord, ho, hn]

end Sys2Proof

namespace Sys2Proof.Machine

open Sys2Proof.Claims

variable {s : State} {i : Instr} {nnn a : Addr} {l : List Addr}

/-! ## Frames of the program counter, the stack and the fault register -/

theorem unchanged_setPc (s : State) (a : Addr) : UnchangedExcept [.pc] s (s.setPc a) :=
  (Keeps.refl (· ∈ [Part.pc]) s).setPc (by simp) a

theorem unchanged_setStack_setPc (s : State) (l : List Addr) (a : Addr) :
    UnchangedExcept [.pc, .stack] s ((s.setStack l).setPc a) :=
  ((Keeps.refl (· ∈ [Part.pc, .stack]) s).setStack (by simp) l).setPc (by simp) a

theorem unchanged_setFault (s : State) (f : FaultReg) : UnchangedExcept [.fault] s (s.setFault f) :=
  (Keeps.refl (· ∈ [Part.fault]) s).setFault (by simp) f

/-! ## Call and return, case by case -/

/-- 00EE on a stack with a top (40_control_flow.md R131). -/
theorem exec_ret_of_append (h : s.stack = l ++ [a]) : exec .ret s = .next ((s.setStack l).setPc a) := by
  obtain ⟨t, ht⟩ := exec_completes .ret s
  obtain ⟨hnil, -⟩ | ⟨b, m, hm, rfl⟩ := exec_ret_cases ht
  · simp [hnil] at h
  · obtain ⟨rfl, rfl⟩ : m = l ∧ b = a := by simpa using hm.symm.trans h
    exact ht

/-- 00EE on an empty stack (40_control_flow.md R131, decision D7). -/
theorem exec_ret_of_nil (h : s.stack = []) : exec .ret s = .next (s.setFault .stackUnderflow) := by
  obtain ⟨t, ht⟩ := exec_completes .ret s
  obtain ⟨-, rfl⟩ | ⟨a, l, hl, -⟩ := exec_ret_cases ht
  · exact ht
  · simp [h] at hl

/-- 2nnn off the stack bound, and with no bound at all (40_control_flow.md R133, decision D5). -/
theorem callWith_of_room {depth : Option Nat} (h : depth ≠ some s.stack.length) :
    callWith depth nnn s = (s.setStack (s.stack ++ [s.next])).setPc nnn := if_neg h

theorem exec_call_of_room (h : Config.stackDepth ≠ some s.stack.length) :
    exec (.call nnn) s = .next ((s.setStack (s.stack ++ [s.next])).setPc nnn) := congrArg _ (callWith_of_room h)

/-- 2nnn at the stack bound (40_control_flow.md R133, decisions D5, D6). -/
theorem exec_call_of_full (h : Config.stackDepth = some s.stack.length) :
    exec (.call nnn) s = .next (s.setFault .stackOverflow) := congrArg _ (if_pos h)

/-! ## Skips -/

/-- `skipIf` on the truth of a condition skips exactly where the condition holds (40_control_flow.md R130, R134). -/
theorem State.pcSkipped_skipIf {taken : Prop} {b : Bool} (s : State) (hb : b = true ↔ taken) :
    PcSkipped taken s (s.skipIf b) := by
  refine ⟨fun h => ?_, fun h => ?_⟩
  · rw [State.skipIf_pc, if_pos (hb.2 h), State.skip_toNat]
  · rw [State.skipIf_pc, if_neg (mt hb.1 h), State.next_toNat]

/-- An instruction that is a `skipIf` and nothing else skips on its condition and writes PC alone. -/
theorem completes_of_skipIf {taken : Prop} {b : Bool} (h : exec i s = .next (s.skipIf b)) (hb : b = true ↔ taken) :
    Completes i s fun t => PcSkipped taken s t ∧ UnchangedExcept [.pc] s t :=
  ⟨_, h, s.pcSkipped_skipIf hb, unchanged_setPc s _⟩

end Sys2Proof.Machine

namespace Sys2Proof.Proofs

open Sys2Proof.Machine Sys2Proof.Claims

/-! ## The obligations of the control-flow family -/

/-- Settles O8: the stack has a top or is empty (`exec_ret_of_append`, `exec_ret_of_nil`). -/
theorem retPopsOrUnderflows : Obligations.RetPopsOrUnderflows := by
  refine ⟨encoded_of_encode (fun op h => h.symm.trans (and_FFFF op)) fun _ => rfl,
    fun s => ⟨fun l a h => ?_, fun h => ?_⟩⟩
  · exact ⟨_, exec_ret_of_append h, rfl, rfl, unchanged_setStack_setPc s l a⟩
  · exact ⟨_, exec_ret_of_nil h, rfl, rfl, unchanged_setFault s _⟩

/-- Settles O10: the call is off the bound or at it, and no stack is at the bound `none`. -/
theorem callPushesOrOverflows : Obligations.CallPushesOrOverflows := by
  refine ⟨encoded_of_encode (fun _ h => packAddr_word h rfl) fun _ => rfl, fun s nnn => ⟨fun h => ?_, fun h => ?_⟩,
    fun s nnn => ?_⟩
  · exact ⟨_, exec_call_of_room h, rfl, rfl, unchanged_setStack_setPc s _ nnn⟩
  · exact ⟨_, exec_call_of_full h, rfl, rfl, unchanged_setFault s _⟩
  · rw [callWith_of_room (depth := none) nofun]
    exact ⟨rfl, rfl⟩

/-- Settles O14: the top of the stack the call left is the address after the call, and the rest is the stack before. -/
theorem returnComesBackAfterCall : Obligations.ReturnComesBackAfterCall := by
  intro s u nnn hroom
  refine ⟨_, exec_call_of_room hroom, fun hstack => ?_⟩
  have hret : exec .ret u = .next ((u.setStack s.stack).setPc s.next) := exec_ret_of_append hstack
  exact ⟨_, hret, s.next_toNat, rfl, rfl⟩

/-- Settles O9: JP is a write of PC. -/
theorem jpSetsPc : Obligations.JpSetsPc :=
  ⟨encoded_of_encode (fun _ h => packAddr_word h rfl) fun _ => rfl, fun s nnn => ⟨_, rfl, rfl, unchanged_setPc s nnn⟩⟩

/-- Settles O11: both instructions are a `skipIf` on the comparison with the immediate. -/
theorem immediateSkips : Obligations.ImmediateSkips :=
  ⟨encoded_of_encode (fun _ h => packImm_word h rfl) fun _ => rfl,
    encoded_of_encode (fun _ h => packImm_word h rfl) fun _ => rfl,
    fun _ _ _ => ⟨completes_of_skipIf rfl beq_iff_eq, completes_of_skipIf rfl bne_iff_ne⟩⟩

/-- Settles O12: both instructions are a `skipIf` on the comparison of the registers, and the words of the two majors
with another low nibble are of a class of R108. -/
theorem registerSkips : Obligations.RegisterSkips := by
  refine ⟨encoded_of_encode (fun _ h => packNibbles_word h rfl rfl) fun _ => rfl,
    encoded_of_encode (fun _ h => packNibbles_word h rfl rfl) fun _ => rfl, fun op hmajor hlow => ?_,
    fun _ _ _ => ⟨completes_of_skipIf rfl beq_iff_eq, completes_of_skipIf rfl bne_iff_ne⟩⟩
  rw [decode_eq_unrecognized_iff]
  apply unrecognizedWord_of_low_nibble
  · rw [← fieldO_toNat]
    exact hmajor.imp fieldO_of_and_F000 fieldO_of_and_F000
  · intro hzero
    have hand : (op &&& 0x000F#16).toNat = op.toNat % 16 := Nat.and_two_pow_sub_one_eq_mod op.toNat 4
    exact hlow (BitVec.eq_of_toNat_eq (hand.trans hzero))

/-- Settles O13: the target is reduced by `mask12`. -/
theorem indexedJumpAddsV0 : Obligations.IndexedJumpAddsV0 :=
  ⟨encoded_of_encode (fun _ h => packAddr_word h rfl) fun _ => rfl,
    fun s nnn => ⟨_, rfl, mask12_toNat _, unchanged_setPc s (jumpTarget (s.reg 0) nnn)⟩⟩

end Sys2Proof.Proofs
end

section
/-! What a register write or a result with its flag leaves, the ALU's operations as arithmetic on bytes, and the proofs
of the ALU family (41_alu.md). -/

namespace Sys2Proof.Claims

open Sys2Proof.Machine

/-- A completion's relation can be weakened. -/
theorem Completes.imp {i : Instr} {s : State} {P Q : State → Prop} (h : Completes i s P) (hPQ : ∀ t, P t → Q t) :
    Completes i s Q :=
  Exists.imp (fun t => And.imp_right (hPQ t)) h

end Sys2Proof.Claims

namespace Sys2Proof.Machine

open Sys2Proof.Claims

variable {s : State} {i : Instr} {x : Reg} {b : Byte} {f : Bool}

/-! ## The flag values -/

theorem flagByte_decide (p : Prop) [Decidable p] : flagByte (decide p) = if p then 1 else 0 := by
  by_cases h : p <;> simp [h]

theorem flagByte_toNat (f : Bool) : (flagByte f).toNat = f.toNat := by
  cases f <;> rfl

theorem flagByte_carry (a b : Byte) : flagByte (carry a b) = if a.toNat + b.toNat > 0xFF then 1 else 0 :=
  flagByte_decide _

theorem flagByte_notBorrow (a b : Byte) : flagByte (notBorrow a b) = if a.toNat > b.toNat then 1 else 0 :=
  flagByte_decide _

theorem flagByte_lowBit_toNat (a : Byte) : (flagByte (lowBit a)).toNat = a.toNat % 2 := by
  rw [flagByte_toNat, lowBit, BitVec.getLsbD, Nat.toNat_testBit, Nat.pow_zero, Nat.div_one]

theorem flagByte_highBit_toNat (a : Byte) : (flagByte (highBit a)).toNat = a.toNat / 0x80 := by
  rw [flagByte_toNat, highBit, BitVec.getLsbD, Nat.toNat_testBit]
  omega

/-! ## The results as numbers -/

theorem byte_sub_toNat (a b : Byte) : (a - b).toNat = (a.toNat + 0x100 - b.toNat) % 0x100 := by
  rw [BitVec.toNat_sub]
  omega

theorem byte_shiftRight_one_toNat (a : Byte) : (a >>> 1).toNat = a.toNat / 2 := by
  rw [BitVec.toNat_ushiftRight, Nat.shiftRight_one]

theorem byte_shiftLeft_one_toNat (a : Byte) : (a <<< 1).toNat = a.toNat * 2 % 0x100 := by
  rw [BitVec.toNat_shiftLeft, Nat.shiftLeft_eq]

/-! ## Register writes and results, with their frames -/

/-- An instruction that writes Vx and advances leaves the rest alone (00_scope.md R10). -/
theorem completes_of_setReg (h : exec i s = .next (s.setReg x b).advance) :
    Completes i s fun t => t.reg x = b ∧ PcAdvanced s t ∧ UnchangedExcept [.pc, .reg x] s t := by
  refine ⟨_, h, ?_, (s.setReg x b).next_toNat, ?_⟩
  · rw [State.advance_reg, State.reg_setReg, if_pos rfl]
  · exact ((Keeps.refl (· ∈ [Part.pc, .reg x]) s).setReg (by simp) b).setPc (by simp) _

/-- An instruction that writes a result and then its flag leaves the flag in VF whatever x is, and the result in Vx
where x is not F (41_alu.md R160, decision D14). -/
theorem completes_of_setResult (h : exec i s = .next (s.setResult x b f).advance) :
    Completes i s fun t => (x ≠ 15 → t.reg x = b) ∧ t.reg 15 = flagByte f ∧ PcAdvanced s t ∧
      UnchangedExcept [.pc, .reg x, .reg 15] s t := by
  refine ⟨_, h, fun hx => ?_, ?_, (s.setResult x b f).next_toNat, ?_⟩
  · rw [State.advance_reg, State.reg_setResult, if_neg (show x ≠ VF from hx), if_pos rfl]
  · rw [State.advance_reg, State.reg_setResult]
    exact if_pos rfl
  · exact ((Keeps.refl (· ∈ [Part.pc, .reg x, .reg 15]) s).setResult (by simp) (by simp [VF]) b f).setPc (by simp) _

end Sys2Proof.Machine

namespace Sys2Proof.Proofs

open Sys2Proof.Machine Sys2Proof.Claims

/-! ## The obligations of the ALU family -/

/-- Settles O15: LD is a write of Vx. -/
theorem loadImmediate : Obligations.LoadImmediate :=
  ⟨encoded_of_encode (fun _ h => packImm_word h rfl) fun _ => rfl, fun _ _ _ => completes_of_setReg rfl⟩

/-- Settles O16: ADD with an immediate is a write of the sum of bytes to Vx, with no flag. -/
theorem addImmediateWrapsWithoutFlag : Obligations.AddImmediateWrapsWithoutFlag := by
  refine ⟨encoded_of_encode (fun _ h => packImm_word h rfl) fun _ => rfl, fun s x kk => ?_⟩
  refine (completes_of_setReg rfl).imp fun t => And.imp_left fun hx => ?_
  exact hx ▸ BitVec.toNat_add (s.reg x) kk

/-- Settles O17: LD between registers is a write of Vx. -/
theorem loadRegisterCopies : Obligations.LoadRegisterCopies :=
  ⟨encoded_of_encode (fun _ h => packNibbles_word h rfl rfl) fun _ => rfl, fun _ _ _ => completes_of_setReg rfl⟩

/-- Settles O18: each form is a write of Vx, and VF is outside its frame but as the destination. -/
theorem logicalFormsLeaveVF : Obligations.LogicalFormsLeaveVF := by
  refine ⟨encoded_of_encode (fun _ h => packNibbles_word h rfl rfl) fun _ => rfl,
    encoded_of_encode (fun _ h => packNibbles_word h rfl rfl) fun _ => rfl,
    encoded_of_encode (fun _ h => packNibbles_word h rfl rfl) fun _ => rfl, fun s x y => ⟨?_, ?_, ?_⟩⟩
  · exact (completes_of_setReg rfl).imp fun t => And.imp_left fun hx _ => hx ▸ BitVec.getLsbD_or
  · exact (completes_of_setReg rfl).imp fun t => And.imp_left fun hx _ => hx ▸ BitVec.getLsbD_and
  · exact (completes_of_setReg rfl).imp fun t => And.imp_left fun hx _ => hx ▸ BitVec.getLsbD_xor

/-- Settles O19: the sum of bytes and its carry, the flag written last. -/
theorem addSetsCarry : Obligations.AddSetsCarry := by
  refine ⟨encoded_of_encode (fun _ h => packNibbles_word h rfl rfl) fun _ => rfl, fun s x y => ?_⟩
  exact (completes_of_setResult rfl).imp fun t ⟨hx, hflag, hframe⟩ =>
    ⟨fun h => hx h ▸ BitVec.toNat_add _ _, hflag ▸ flagByte_carry _ _, hframe⟩

/-- Settles O20: both are `a - b` with `notBorrow a b`, SUB of Vx and Vy and SUBN the other way round. -/
theorem subtractionsSetNotBorrow : Obligations.SubtractionsSetNotBorrow := by
  refine ⟨encoded_of_encode (fun _ h => packNibbles_word h rfl rfl) fun _ => rfl,
    encoded_of_encode (fun _ h => packNibbles_word h rfl rfl) fun _ => rfl, fun s x y => ⟨?_, ?_⟩⟩
  · exact (completes_of_setResult rfl).imp fun t ⟨hx, hflag, hframe⟩ =>
      ⟨fun h => hx h ▸ byte_sub_toNat _ _, hflag ▸ flagByte_notBorrow _ _, hframe⟩
  · exact (completes_of_setResult rfl).imp fun t ⟨hx, hflag, hframe⟩ =>
      ⟨fun h => hx h ▸ byte_sub_toNat _ _, hflag ▸ flagByte_notBorrow _ _, hframe⟩

/-- Settles O21: a shift by one halves or doubles the byte, and the bit shifted out is what the number loses. -/
theorem shiftsPutBitShiftedOutInVF : Obligations.ShiftsPutBitShiftedOutInVF := by
  refine ⟨encoded_of_encode (fun _ h => packNibbles_word h rfl rfl) fun _ => rfl,
    encoded_of_encode (fun _ h => packNibbles_word h rfl rfl) fun _ => rfl, fun s x y => ⟨?_, ?_⟩⟩
  · exact (completes_of_setResult rfl).imp fun t ⟨hx, hflag, hframe⟩ =>
      ⟨fun h => hx h ▸ byte_shiftRight_one_toNat _, hflag ▸ flagByte_lowBit_toNat _, hframe⟩
  · exact (completes_of_setResult rfl).imp fun t ⟨hx, hflag, hframe⟩ =>
      ⟨fun h => hx h ▸ byte_shiftLeft_one_toNat _, hflag ▸ flagByte_highBit_toNat _, hframe⟩

/-- Settles O22: RND is a write of the masked sample to Vx with one sample counted, whatever the sample is. -/
theorem randomIsMaskedSample : Obligations.RandomIsMaskedSample := by
  refine ⟨encoded_of_encode (fun _ h => packImm_word h rfl) fun _ => rfl, fun s x kk => ?_⟩
  have hreg : (rndWith s.rand8 x kk s).countDraw.reg x = s.rand8 &&& kk :=
    (s.reg_setReg x (s.rand8 &&& kk) x).trans (if_pos rfl)
  refine ⟨_, rfl, fun b => ?_, fun hkk => ?_, rfl, s.next_toNat, ?_⟩
  · rw [hreg, BitVec.getLsbD_and, State.rand8]
  · rw [hreg, hkk]
    exact BitVec.and_zero
  · exact (((Keeps.refl (· ∈ [Part.pc, .reg x, .draws]) s).setReg (by simp) _).setPc (by simp) _).countDraw (by simp)

end Sys2Proof.Proofs
end

section
/-! Words read by the mask of the Fxkk rows, the frames of the index register and of the block transfers, and the proofs
of the index and memory family (42_index_memory.md). -/

namespace Sys2Proof

open Sys2Proof.Claims

variable {op v : Opcode} {o : BitVec 4}

/-! ## A word of the Fxkk rows is packed from its fields -/

theorem fields_of_and_F0FF (h : op &&& 0xF0FF#16 = v) :
    (fieldO op).toNat = v.toNat / 4096 ∧ (fieldKK op).toNat = v.toNat % 256 := by
  have hval := h ▸ and_F0FF op
  rw [fieldO_toNat, fieldKK_toNat]
  omega

theorem packImm_word_of_low_byte {kk : Byte} (h : op &&& 0xF0FF#16 = v) (ho : v.toNat / 4096 = o.toNat)
    (hk : v.toNat % 256 = kk.toNat) : packImm o (wordX op) kk = op := by
  obtain ⟨hop, hlow⟩ := fields_of_and_F0FF h
  exact wordX_eq_fieldX op ▸ packImm_fields (hop.trans ho) (hlow.trans hk)

end Sys2Proof

namespace Sys2Proof.Machine

open Sys2Proof.Claims

variable {s t : State} {i : Instr} {a : Addr} {n : Nat} {w : Part → Prop} {written : List Part}

/-! ## Frames of an advance, of the index register and of the block transfers -/

/-- An advance after writes that leave PC alone takes PC to the next instruction and adds PC to their frame. -/
theorem pcAdvanced_and_unchanged_advance (h : UnchangedExcept written s t) (hpc : .pc ∉ written) :
    PcAdvanced s t.advance ∧ UnchangedExcept (.pc :: written) s t.advance := by
  have hsame : t.pc = s.pc := h .pc hpc
  have widened : Keeps (· ∈ .pc :: written) s t := fun p hp => h p (mt (List.mem_cons_of_mem _) hp)
  refine ⟨?_, widened.setPc (List.mem_cons_self ..) _⟩
  rw [PcAdvanced, ← hsame]
  exact t.next_toNat

/-- An instruction that writes I and advances leaves the rest alone, every register among it (decision D13). -/
theorem completes_of_setI (h : exec i s = .next (s.setI a).advance) :
    Completes i s fun t => t.i = a ∧ PcAdvanced s t ∧ UnchangedExcept [.pc, .index] s t :=
  ⟨_, h, rfl, pcAdvanced_and_unchanged_advance ((Keeps.refl (· ∈ [Part.index]) s).setI (by simp) a) (by simp)⟩

/-- In a memory in canonical form a transfer of registers extends a frame that allows the bytes it stores to. -/
theorem Keeps.storeRange_of_wf (h : Keeps w s t) (hm : t.mem.wf = true) (hw : ∀ k < n, w (.byte (t.indexed k))) :
    Keeps w s (t.storeRange n) := by
  induction n with
  | zero => exact h
  | succ n ih =>
    rw [State.storeRange_succ]
    exact (ih fun k hk => hw k (by omega)).writeByte_of_wf (State.wf_storeRange n hm) (hw n (by omega)) _

/-- Storing a range writes the bytes of its addresses alone (42_index_memory.md R204). -/
theorem unchanged_storeRange (hm : s.mem.wf = true) (n : Nat) :
    UnchangedExcept ((List.range n).map fun k => .byte (s.indexed k)) s (s.storeRange n) :=
  (Keeps.refl (· ∈ (List.range n).map fun k => Part.byte (s.indexed k)) s).storeRange_of_wf hm fun _ hk =>
    List.mem_map_of_mem (List.mem_range.2 hk)

/-- Loading a range writes the registers of its numbers alone (42_index_memory.md R205). -/
theorem unchanged_loadRange (s : State) (n : Nat) :
    UnchangedExcept ((List.range n).map fun k => .reg (regOf k)) s (s.loadRange n) :=
  (Keeps.refl (· ∈ (List.range n).map fun k => Part.reg (regOf k)) s).loadRange fun _ hk =>
    List.mem_map_of_mem (List.mem_range.2 hk)

/-- Three stores in a memory in canonical form write their three bytes alone (42_index_memory.md R203). -/
theorem unchanged_writeByte_three (hm : s.mem.wf = true) (a₀ a₁ a₂ : Addr) (b₀ b₁ b₂ : Byte) :
    UnchangedExcept [.byte a₀, .byte a₁, .byte a₂] s (((s.writeByte a₀ b₀).writeByte a₁ b₁).writeByte a₂ b₂) := by
  have hm₀ := State.wf_writeByte a₀ b₀ hm
  have hm₁ := State.wf_writeByte a₁ b₁ hm₀
  have start : Keeps (· ∈ [Part.byte a₀, .byte a₁, .byte a₂]) s s := .refl _ s
  exact ((start.writeByte_of_wf hm (by simp) b₀).writeByte_of_wf hm₀ (by simp) b₁).writeByte_of_wf hm₁ (by simp) b₂

/-! ## The values as numbers -/

/-- Five times a byte is below 0x1000, so `mask12` does not reduce it. -/
theorem glyphAddress_toNat (b : Byte) : (glyphAddress b).toNat = b.toNat * 5 := by
  rw [glyphAddress, mask12_toNat]
  omega

theorem decimalDigit_zero (b : Byte) : decimalDigit b 0 = b.toNat / 100 := by
  simp only [decimalDigit]
  omega

theorem decimalDigit_one (b : Byte) : decimalDigit b 1 = b.toNat / 10 % 10 := rfl

theorem decimalDigit_two (b : Byte) : decimalDigit b 2 = b.toNat % 10 := congrArg (· % 10) (Nat.div_one _)

/-- After Fx65 V0..Vx hold the bytes from I on (42_index_memory.md R205). -/
theorem exec_loadRegs_reg {x r : Reg} (h : exec (.loadRegs x) s = .next t) (hr : r ≤ x) :
    t.reg r = s.readByte (s.indexed r.val) := by
  cases h
  rw [State.advance_reg, State.reg_loadRange s (by omega), if_pos (Nat.lt_succ_of_le hr)]

end Sys2Proof.Machine

namespace Sys2Proof.Proofs

open Sys2Proof.Machine Sys2Proof.Claims

/-! ## The obligations of the index and memory family -/

/-- Settles O27: each register is read back at its address (`exec_storeRegs_readByte`), and the stores write their
addresses alone (`unchanged_storeRange`). -/
theorem registersStored : Obligations.RegistersStored := by
  refine ⟨encoded_of_encode (fun _ h => packImm_word_of_low_byte h rfl rfl) fun _ => rfl, fun s x hm => ?_⟩
  exact ⟨_, rfl, fun _ => exec_storeRegs_readByte hm rfl, s.indexed_toNat,
    pcAdvanced_and_unchanged_advance (unchanged_storeRange hm _) (by simp)⟩

/-- Settles O28: each register holds the byte of its address (`exec_loadRegs_reg`), and the loads write their registers
alone (`unchanged_loadRange`). -/
theorem registersLoaded : Obligations.RegistersLoaded := by
  refine ⟨encoded_of_encode (fun _ h => packImm_word_of_low_byte h rfl rfl) fun _ => rfl, fun s x => ?_⟩
  exact ⟨_, rfl, fun _ => exec_loadRegs_reg rfl, pcAdvanced_and_unchanged_advance (unchanged_loadRange s _) (by simp)⟩

/-- Settles O23: LD I is a write of I. -/
theorem loadIndex : Obligations.LoadIndex :=
  ⟨encoded_of_encode (fun _ h => packAddr_word h rfl) fun _ => rfl, fun _ _ => completes_of_setI rfl⟩

/-- Settles O24: ADD I is a write of the sum reduced by `mask12` to I, with no flag. -/
theorem addIndexWrapsWithoutFlag : Obligations.AddIndexWrapsWithoutFlag := by
  refine ⟨encoded_of_encode (fun _ h => packImm_word_of_low_byte h rfl rfl) fun _ => rfl, fun s x => ?_⟩
  exact (completes_of_setI rfl).imp fun t => And.imp_left fun hi => hi ▸ s.indexed_toNat _

/-- Settles O25: LD F is a write of the glyph address to I, which no reduction changes (`glyphAddress_toNat`). -/
theorem glyphAddressIsFiveTimesVx : Obligations.GlyphAddressIsFiveTimesVx := by
  refine ⟨encoded_of_encode (fun _ h => packImm_word_of_low_byte h rfl rfl) fun _ => rfl, fun s x => ?_⟩
  exact (completes_of_setI rfl).imp fun t => And.imp_left fun hi => hi ▸ glyphAddress_toNat _

/-- Settles O26: each digit is read back at its address (`exec_ldB_readByte`), and the three stores write their addresses
alone. -/
theorem decimalDigitsStored : Obligations.DecimalDigitsStored := by
  refine ⟨encoded_of_encode (fun _ h => packImm_word_of_low_byte h rfl rfl) fun _ => rfl, fun s x hm => ?_⟩
  have frame := unchanged_writeByte_three hm (s.indexed 0) (s.indexed 1) (s.indexed 2)
    (hundreds (s.reg x)) (tens (s.reg x)) (ones (s.reg x))
  exact ⟨_, rfl, (exec_ldB_readByte hm rfl (by decide)).trans (decimalDigit_zero _),
    (exec_ldB_readByte hm rfl (by decide)).trans (decimalDigit_one _),
    (exec_ldB_readByte hm rfl (by decide)).trans (decimalDigit_two _), s.indexed_toNat,
    pcAdvanced_and_unchanged_advance frame (by simp)⟩

end Sys2Proof.Proofs
end

section
/-! A step seen from the same state with another framebuffer, the sprite as a pattern that is drawn bit by bit, and the
proofs of the display family (43_display.md). -/

namespace Sys2Proof

open Sys2Proof.Claims

/-! ## A word of the Dxyn row is packed from its fields -/

theorem wordN_eq_fieldN (op : Opcode) : wordN op = fieldN op := Fin.ext (fieldN_val op).symm

theorem packNibbles_word_of_high_nibble {op v : Opcode} {o : BitVec 4} (h : op &&& 0xF000#16 = v)
    (ho : v.toNat / 4096 = o.toNat) : packNibbles o (wordX op) (wordY op) (wordN op) = op := by
  rw [wordX_eq_fieldX, wordY_eq_fieldY, wordN_eq_fieldN]
  exact packNibbles_fields ((fieldO_of_and_F000 h).trans ho) rfl

end Sys2Proof

namespace Sys2Proof.Machine

open Sys2Proof.Claims

variable {s t : State} {i : Instr}

/-! ## A step, case by case -/

/-- Between events with none left a step is at rest (60_exceptions.md R309, log 3). -/
theorem step_of_rest (hb : s.burst = none) (he : s.events = []) : step s = s.atRest := by
  unfold step State.move State.nextEvent
  rw [hb, he]

/-- Inside a tick whose burst is used up or stopped, a step ends the tick (60_exceptions.md R301, R304). -/
theorem step_of_stopped {k : Nat} (hb : s.burst = some k) (h : k = 0 ∨ s.canStep = false) :
    step s = .next s.endTick := by
  unfold step State.move
  rw [hb]
  cases k with
  | zero => rfl
  | succ k => exact if_neg (by simp [h.resolve_left k.succ_ne_zero])

/-- Inside a tick whose burst goes on, a step is the instruction at PC (60_exceptions.md R305). -/
theorem step_of_canStep {k : Nat} (hb : s.burst = some (k + 1)) (hc : s.canStep = true) :
    step s = exec s.current (s.setBurst (some k)) := by
  unfold step State.move
  rw [hb]
  exact if_pos hc

/-- At rest an unfaulted state stays as it is, and a faulted one has no next state (60_exceptions.md R309). -/
theorem State.atRest_eq_next_iff : s.atRest = .next t ↔ s.fault = .noFault ∧ s = t := by
  unfold State.atRest
  split <;> simp_all

/-! ## The writers of the framebuffer -/

/-- Of the events only a reset writes the framebuffer (70_reset_and_hazards.md R340). -/
theorem State.deliver_fb {e : Event} (he : e ≠ .reset) (s : State) : (State.deliver e s).fb = s.fb := by
  cases e with
  | reset => exact absurd rfl he
  | load a b =>
    change (s.loadEvent a b).fb = s.fb
    unfold State.loadEvent
    split <;> rfl
  | keyRelease k =>
    change (s.keyReleaseEvent k).fb = s.fb
    unfold State.keyReleaseEvent
    split <;> rfl
  | tick | repaint => rfl

/-- A step that changes the framebuffer runs 00E0 or Dxyn, or takes a reset event (43_display.md R236). -/
theorem step_fb_writer (h : step s = .next t) (hne : t.fb ≠ s.fb) :
    ((∃ k, s.burst = some (k + 1)) ∧ (s.current = .cls ∨ ∃ x y n, s.current = .drw x y n)) ∨
    (s.burst = none ∧ ∃ rest, s.events = .reset :: rest) := by
  obtain ⟨-, -, hm⟩ | ⟨e, es, hb, he, hm⟩ | ⟨k, -, -, hm⟩ | ⟨k, hb, -, hm⟩ := s.move_cases
  · obtain ⟨-, rfl⟩ := State.atRest_eq_next_iff.1 (hm.symm.trans h)
    exact absurd rfl hne
  · cases hm.symm.trans h
    have hreset : e = .reset := not_not.1 fun hother => hne (State.deliver_fb hother (s.setEvents es))
    exact .inr ⟨hb, es, hreset ▸ he⟩
  · cases hm.symm.trans h
    exact absurd rfl hne
  · exact .inl ⟨⟨k, hb⟩, writtenBy_of_changed (p := .display) (hm.symm.trans h) hne⟩

/-! ## The same step with another framebuffer -/

/-- The state with another framebuffer and other signals emitted: what alone may differ where no Dxyn runs. -/
def State.setScreen (s : State) (fb : Framebuffer) (outputs : List Output) : State :=
  { s with fb := fb, outputs := outputs }

theorem unchanged_setScreen (t : State) (fb : Framebuffer) (outputs : List Output) :
    UnchangedExcept [.display, .outputs, .reg 15] t (t.setScreen fb outputs) := fun p hp => by
  cases p with
  | display | outputs => simp at hp
  | _ => rfl

theorem unchanged_setFb_setFlag {written : List Part} (hdisplay : .display ∈ written) (hflag : .reg VF ∈ written)
    (s : State) (fb : Framebuffer) (b : Bool) : UnchangedExcept written s ((s.setFb fb).setFlag b) :=
  ((Keeps.refl (· ∈ written) s).setFb hdisplay fb).setReg hflag _

/-- Of two flags the last one stands. -/
theorem State.setFlag_setFlag (s : State) (a b : Bool) : (s.setFlag a).setFlag b = s.setFlag b := by
  simp [State.setFlag, State.setReg]

/-- A draw's framebuffer and flag written over another draw's. -/
theorem State.setFb_setFlag_over (s : State) (f g : Framebuffer) (a b : Bool) :
    (((s.setFb f).setFlag a).advance.setFb g).setFlag b = ((s.setFb g).setFlag b).advance :=
  congrArg (fun t : State => (t.setFb g).advance) (s.setFlag_setFlag a b)

/-- Storing registers does not look at the framebuffer and keeps it. -/
theorem State.storeRange_setFb (s : State) (f : Framebuffer) (n : Nat) :
    (s.setFb f).storeRange n = (s.storeRange n).setFb f := by
  induction n with
  | zero => rfl
  | succ n ih => rw [State.storeRange_succ, State.storeRange_succ, ih]; rfl

/-- Loading registers does not look at the framebuffer and keeps it. -/
theorem State.loadRange_setFb (s : State) (f : Framebuffer) (n : Nat) :
    (s.setFb f).loadRange n = (s.loadRange n).setFb f := by
  induction n with
  | zero => rfl
  | succ n ih => rw [State.loadRange_succ, State.loadRange_succ, ih]; rfl

/-- An instruction run with another framebuffer ends in the same state but for the framebuffer and, after a Dxyn only,
VF (43_display.md R236). -/
theorem exec_setFb_cases (h : exec i s = .next t) (f : Framebuffer) :
    (∃ g, exec i (s.setFb f) = .next (t.setFb g)) ∨
    ((∃ x y n, i = .drw x y n) ∧ ∃ g b, exec i (s.setFb f) = .next ((t.setFb g).setFlag b)) := by
  cases i with
  | drw x y n =>
    cases h
    exact .inr ⟨⟨x, y, n, rfl⟩, _, _, congrArg Host.Outcome.next (s.setFb_setFlag_over _ _ _ _).symm⟩
  | cls => cases h; exact .inl ⟨Framebuffer.blank, rfl⟩
  | call nnn =>
    refine .inl ⟨f, ?_⟩
    obtain ⟨hfull, rfl⟩ | ⟨hroom, rfl⟩ := exec_call_cases h
    · exact exec_call_of_full (s := s.setFb f) hfull
    · exact exec_call_of_room (s := s.setFb f) hroom
  | ret =>
    refine .inl ⟨f, ?_⟩
    obtain ⟨hnil, rfl⟩ | ⟨a, l, hl, rfl⟩ := exec_ret_cases h
    · exact exec_ret_of_nil (s := s.setFb f) hnil
    · exact exec_ret_of_append (s := s.setFb f) hl
  | storeRegs x =>
    cases h
    exact .inl ⟨f, congrArg (fun t : State => Host.Outcome.next t.advance) (s.storeRange_setFb f _)⟩
  | loadRegs x =>
    cases h
    exact .inl ⟨f, congrArg (fun t : State => Host.Outcome.next t.advance) (s.loadRange_setFb f _)⟩
  | _ => cases h; exact .inl ⟨f, rfl⟩

/-- An event taken with another framebuffer ends in the same state but for the framebuffer and the signals. -/
theorem State.deliver_setFb (e : Event) (s : State) (f : Framebuffer) :
    ∃ g o, State.deliver e (s.setFb f) = (State.deliver e s).setScreen g o := by
  cases e with
  | reset => exact ⟨Framebuffer.blank, s.outputs, rfl⟩
  | load a b =>
    refine ⟨f, s.outputs, ?_⟩
    cases hl : s.loadPhase with
    | true => rw [State.deliver_load_of_open hl, State.deliver_load_of_open (s := s.setFb f) hl]; rfl
    | false => rw [State.deliver_load_of_closed hl, State.deliver_load_of_closed (s := s.setFb f) hl]; rfl
  | tick => exact ⟨f, (State.deliver .tick s).outputs, rfl⟩
  | keyRelease k =>
    refine ⟨f, s.outputs, ?_⟩
    change (s.setFb f).keyReleaseEvent k = (s.keyReleaseEvent k).setScreen f s.outputs
    unfold State.keyReleaseEvent
    rw [State.setFb_waiting]
    split <;> rfl
  | repaint => exact ⟨f, s.outputs ++ [.redraw f], rfl⟩

/-- A step with another framebuffer ends in the same state but for the framebuffer and the signals, or, where it runs a
Dxyn, the framebuffer and VF (43_display.md R236). -/
theorem step_setFb_cases (h : step s = .next t) (f : Framebuffer) :
    (∃ g o, step (s.setFb f) = .next (t.setScreen g o)) ∨
    ((∃ x y n, s.current = .drw x y n) ∧ ∃ g b, step (s.setFb f) = .next ((t.setFb g).setFlag b)) := by
  obtain ⟨hb, he, hm⟩ | ⟨e, es, hb, he, hm⟩ | ⟨k, hb, hstop, hm⟩ | ⟨k, hb, hc, hm⟩ := s.move_cases
  · obtain ⟨hf, rfl⟩ := State.atRest_eq_next_iff.1 (hm.symm.trans h)
    exact .inl ⟨f, s.outputs, (step_of_rest (s := s.setFb f) hb he).trans (State.atRest_eq_next_iff.2 ⟨hf, rfl⟩)⟩
  · cases hm.symm.trans h
    obtain ⟨g, o, hg⟩ := State.deliver_setFb e (s.setEvents es) f
    exact .inl ⟨g, o, (step_of_event (s := s.setFb f) hb he).trans (congrArg _ hg)⟩
  · cases hm.symm.trans h
    exact .inl ⟨f, (s.setFb f).endTick.outputs, step_of_stopped (s := s.setFb f) hb hstop⟩
  · have hstep := step_of_canStep (s := s.setFb f) hb hc
    obtain ⟨g, hg⟩ | ⟨hdrw, g, b, hg⟩ := exec_setFb_cases (hm.symm.trans h) f
    · exact .inl ⟨g, t.outputs, hstep.trans hg⟩
    · exact .inr ⟨hdrw, g, b, hstep.trans hg⟩

/-! ## The sprite as a pattern of pixels -/

/-- The sprite row that falls on a pixel row, counted from the draw's own row and wrapped (43_display.md R230). -/
def rowOffset (vy : Byte) (r : Fin 32) : Nat := (r.val + 32 - vy.toNat % 32) % 32

/-- The sprite column that falls on a pixel column (43_display.md R230). -/
def colOffset (vx : Byte) (c : Fin 64) : Nat := (c.val + 64 - vx.toNat % 64) % 64

theorem rowOffset_eq_iff {vy : Byte} {r : Fin 32} {k : Nat} (hk : k < 32) :
    rowOffset vy r = k ↔ r = pixelRow vy k := by
  rw [Fin.ext_iff, rowOffset, pixelRow, Fin.val_ofNat]
  omega

theorem colOffset_eq_iff {vx : Byte} {c : Fin 64} {k : Nat} (hk : k < 64) :
    colOffset vx c = k ↔ c = pixelCol vx k := by
  rw [Fin.ext_iff, colOffset, pixelCol, Fin.val_ofNat]
  omega

/-- The bit of a sprite byte's first k columns that falls on a pixel column, bit 7 leftmost (43_display.md R232). -/
def byteBit (vx b : Byte) (k : Nat) (c : Fin 64) : Bool :=
  decide (colOffset vx c < k) && b.getLsbD (7 - colOffset vx c)

theorem spriteBit_eq (s : State) (vx vy : Byte) (n : Nat) (r : Fin 32) (c : Fin 64) :
    spriteBit s vx vy n r c =
      (decide (rowOffset vy r < n) && byteBit vx (s.readByte (s.indexed (rowOffset vy r))) 8 c) := by
  rw [byteBit, ← Bool.and_assoc, ← Bool.decide_and]
  rfl

theorem byteBit_pixelCol {vx b : Byte} {k n : Nat} (hk : k < 64) :
    byteBit vx b n (pixelCol vx k) = (decide (k < n) && b.getLsbD (7 - k)) := by
  rw [byteBit, (colOffset_eq_iff hk).2 rfl]

theorem spriteBit_pixelRow {vx vy : Byte} {k n : Nat} (hk : k < 32) (c : Fin 64) :
    spriteBit s vx vy n (pixelRow vy k) c = (decide (k < n) && byteBit vx (s.readByte (s.indexed k)) 8 c) := by
  rw [spriteBit_eq, (rowOffset_eq_iff hk).2 rfl]

/-- One column more. -/
theorem byteBit_succ {vx b : Byte} {k : Nat} (hk : k < 64) (c : Fin 64) :
    byteBit vx b (k + 1) c = (byteBit vx b k c || (b.getLsbD (7 - k) && decide (c = pixelCol vx k))) := by
  by_cases h : c = pixelCol vx k
  · simp [h, byteBit_pixelCol hk]
  · have hne : colOffset vx c ≠ k := mt (colOffset_eq_iff hk).1 h
    simp [byteBit, h, hne.le_iff_lt]

/-- One row more. -/
theorem spriteBit_succ {vx vy : Byte} {n : Nat} (hn : n < 32) (r : Fin 32) (c : Fin 64) :
    spriteBit s vx vy (n + 1) r c =
      (spriteBit s vx vy n r c || (decide (r = pixelRow vy n) && byteBit vx (s.readByte (s.indexed n)) 8 c)) := by
  by_cases h : r = pixelRow vy n
  · simp [h, spriteBit_pixelRow hn]
  · have hne : rowOffset vy r ≠ n := mt (rowOffset_eq_iff hn).1 h
    simp [spriteBit_eq, h, hne.le_iff_lt]

/-! ## A canvas with a pattern drawn on it -/

/-- The canvas shows a pattern drawn once on a framebuffer: the pattern's pixels inverted, and a collision exactly where
one of them was true (43_display.md R233). -/
structure Canvas.Shows (d : Canvas) (fb : Framebuffer) (σ : Fin 32 → Fin 64 → Bool) : Prop where
  pixel : ∀ r c, d.fb.pixel r c = (fb.pixel r c ^^ σ r c)
  col : d.col = true ↔ ∃ r c, fb.pixel r c = true ∧ σ r c = true

variable {d : Canvas} {fb : Framebuffer} {σ τ : Fin 32 → Fin 64 → Bool}

/-- One bit drawn where the pattern has none yet gives the pattern with that bit. -/
theorem Canvas.Shows.drawBit {r : Fin 32} {c : Fin 64} {b : Bool} (h : d.Shows fb σ) (hnew : σ r c = false)
    (hτ : ∀ q e, τ q e = (σ q e || (b && decide (q = r ∧ e = c)))) : (d.drawBit r c b).Shows fb τ := by
  obtain ⟨hpix, hcol⟩ := h
  refine ⟨fun q e => ?_, ?_⟩
  · rw [Canvas.drawBit_pixel, hpix, hτ]
    by_cases hqe : q = r ∧ e = c
    · obtain ⟨rfl, rfl⟩ := hqe
      simp [hnew]
    · simp [hqe]
  · simp [Canvas.drawBit_col, hpix, hnew, hcol, hτ, and_or_left, exists_or, and_left_comm]

/-- A sprite byte's first k columns drawn at a row. -/
def Canvas.drawColumns (d : Canvas) (vx : Byte) (r : Fin 32) (b : Byte) (k : Nat) : Canvas :=
  (List.range k).foldl (fun d c => d.drawBit r (pixelCol vx c) (b.getLsbD (7 - c))) d

theorem Canvas.drawColumns_eight (d : Canvas) (vx : Byte) (r : Fin 32) (b : Byte) :
    d.drawColumns vx r b 8 = d.drawByte vx r b := rfl

theorem Canvas.drawColumns_succ (d : Canvas) (vx : Byte) (r : Fin 32) (b : Byte) (k : Nat) :
    d.drawColumns vx r b (k + 1) = (d.drawColumns vx r b k).drawBit r (pixelCol vx k) (b.getLsbD (7 - k)) := by
  rw [Canvas.drawColumns, List.range_succ, List.foldl_append]
  rfl

theorem State.drawSprite_succ (s : State) (vx vy : Byte) (n : Nat) :
    s.drawSprite vx vy (n + 1) = (s.drawSprite vx vy n).drawByte vx (pixelRow vy n) (s.readByte (s.indexed n)) := by
  rw [State.drawSprite, List.range_succ, List.foldl_append]
  rfl

/-- The first k columns of a byte drawn in a row where the pattern has none yet: each column is met once. -/
theorem Canvas.Shows.drawColumns {r : Fin 32} (h : d.Shows fb σ) (hrow : ∀ c, σ r c = false) (vx b : Byte) {k : Nat}
    (hk : k ≤ 64) (hτ : ∀ q e, τ q e = (σ q e || (decide (q = r) && byteBit vx b k e))) :
    (d.drawColumns vx r b k).Shows fb τ := by
  induction k generalizing τ with
  | zero =>
    have hsame : τ = σ := funext₂ fun q e => by simp [hτ, byteBit]
    exact hsame ▸ h
  | succ k ih =>
    rw [Canvas.drawColumns_succ]
    refine (ih (by omega) fun _ _ => rfl).drawBit ?_ fun q e => ?_
    · simp [hrow, byteBit_pixelCol (show k < 64 by omega)]
    · rw [hτ, byteBit_succ (by omega)]
      by_cases hq : q = r <;> simp [hq, Bool.or_assoc]

/-- The canvas after n sprite rows shows the sprite of n rows: each row is met once (43_display.md R233). -/
theorem State.drawSprite_shows (s : State) (vx vy : Byte) {n : Nat} (hn : n ≤ 32) :
    (s.drawSprite vx vy n).Shows s.fb (spriteBit s vx vy n) := by
  induction n with
  | zero =>
    have hempty : spriteBit s vx vy 0 = fun _ _ => false := funext₂ fun r c => by simp [spriteBit_eq]
    rw [hempty]
    exact ⟨fun r c => (Bool.xor_false _).symm, by simp [State.drawSprite]⟩
  | succ n ih =>
    rw [State.drawSprite_succ, ← Canvas.drawColumns_eight]
    refine (ih (by omega)).drawColumns (fun c => ?_) vx _ (by omega) (spriteBit_succ (by omega))
    simp [spriteBit_pixelRow (show n < 32 by omega)]

/-- A sprite byte with a 1 bit puts it on a pixel. -/
theorem exists_spriteBit {vx vy : Byte} {k n : Nat} (hk : k < n) (hn : n ≤ 32) (hb : s.readByte (s.indexed k) ≠ 0) :
    ∃ r c, spriteBit s vx vy n r c = true := by
  obtain ⟨j, hj, hbit⟩ : ∃ j, j < 8 ∧ (s.readByte (s.indexed k)).getLsbD j = true := by
    by_contra! hnone
    exact hb (BitVec.eq_of_getLsbD_eq fun j hj => by simpa using hnone j hj)
  refine ⟨pixelRow vy k, pixelCol vx (7 - j), ?_⟩
  rw [spriteBit_pixelRow (by omega), byteBit_pixelCol (by omega), show 7 - (7 - j) = j by omega, hbit]
  simp [hk, show 7 - j < 8 by omega]

/-- The sprite is read from memory at I. -/
theorem spriteBit_congr (hi : t.i = s.i) (hmem : ∀ a, t.readByte a = s.readByte a) : spriteBit t = spriteBit s := by
  have hidx : t.indexed = s.indexed := funext fun k => by rw [State.indexed, hi, State.indexed]
  funext vx vy n r c
  simp only [spriteBit, hidx, hmem]

end Sys2Proof.Machine

namespace Sys2Proof.Proofs

open Sys2Proof.Machine Sys2Proof.Claims

/-! ## The obligations of the display family -/

/-- Settles O55: the writers of the framebuffer (`step_fb_writer`), and the step with another framebuffer by what a move
can be (`step_setFb_cases`). -/
theorem displayFlowsOnlyIntoCollisionFlag : Obligations.DisplayFlowsOnlyIntoCollisionFlag := by
  refine ⟨fun s t => step_fb_writer, fun s t f h => ?_⟩
  obtain ⟨g, o, hu⟩ | ⟨hdrw, g, b, hu⟩ := step_setFb_cases h f
  · exact ⟨_, hu, unchanged_setScreen t g o, fun hne => absurd rfl hne⟩
  · exact ⟨_, hu, unchanged_setFb_setFlag (by simp) (by simp [VF]) t g b, fun _ => hdrw⟩

/-- Settles O31: the canvas of the draw shows the sprite (`State.drawSprite_shows`), and VF is its collision. -/
theorem drawXorsSpriteAndSetsCollision : Obligations.DrawXorsSpriteAndSetsCollision := by
  refine ⟨encoded_of_encode (fun _ h => packNibbles_word_of_high_nibble h rfl) fun _ => rfl, fun s x y n => ?_⟩
  obtain ⟨hpix, hcol⟩ := s.drawSprite_shows (s.reg x) (s.reg y) (show n.val ≤ 32 by omega)
  have hflag (fb : Framebuffer) (b : Bool) : ((s.setFb fb).setFlag b).advance.reg 15 = flagByte b :=
    ((s.setFb fb).reg_setFlag b 15).trans (if_pos rfl)
  have frame := unchanged_setFb_setFlag (written := [.display, .reg 15]) (by simp) (by simp [VF]) s
  refine ⟨_, rfl, hpix, fun h => ?_, fun h => ?_, pcAdvanced_and_unchanged_advance (frame _ _) (by simp)⟩
  · rw [hflag, hcol.2 h, flagByte_true]
  · rw [hflag, Bool.eq_false_iff.2 (mt hcol.1 h), flagByte_false]

/-- Settles O32: both draws are of one sprite, since the first changes neither its bytes nor its place; so its pixels
are inverted twice, and those the second draw meets true are those the first one met false. -/
theorem drawTwiceRestoresDisplay : Obligations.DrawTwiceRestoresDisplay := by
  intro s x y n hx hy
  obtain ⟨-, draw⟩ := drawXorsSpriteAndSetsCollision
  obtain ⟨t, ht, hpix, hone, -, -, hframe⟩ := draw s x y n
  obtain ⟨u, hu, hpix', hone', hzero', -, -⟩ := draw t x y n
  have hsprite : spriteBit t (t.reg x) (t.reg y) = spriteBit s (s.reg x) (s.reg y) := by
    have hmem (a : Addr) : t.readByte a = s.readByte a := hframe (.byte a) (by simp)
    have hregx : t.reg x = s.reg x := hframe (.reg x) (by simpa using hx)
    have hregy : t.reg y = s.reg y := hframe (.reg y) (by simpa using hy)
    rw [spriteBit_congr (hframe .index (by simp)) hmem, hregx, hregy]
  have hlit : (∃ r c, t.pixel r c = true ∧ spriteBit s (s.reg x) (s.reg y) n.val r c = true) ↔
      ∃ r c, s.pixel r c = false ∧ spriteBit s (s.reg x) (s.reg y) n.val r c = true :=
    exists₂_congr fun r c => and_congr_left fun hb => by simp [hpix, hb]
  rw [hsprite] at hpix'
  rw [hsprite, hlit] at hone' hzero'
  have hrestored (r : Fin 32) (c : Fin 64) : u.pixel r c = s.pixel r c := by simp [hpix', hpix]
  refine ⟨t, ht, u, hu, Framebuffer.ext_pixel hrestored, hone', hzero', fun hclear ⟨k, hk, hbyte⟩ => hone' ?_⟩
  obtain ⟨r, c, hb⟩ := exists_spriteBit (vx := s.reg x) (vy := s.reg y) hk (by omega) hbyte
  have hunset : s.pixel r c ≠ true := fun hset => by simp [hone ⟨r, c, hset, hb⟩] at hclear
  exact ⟨r, c, Bool.eq_false_iff.2 hunset, hb⟩

/-- Settles O30: CLS replaces the framebuffer by the blank one. -/
theorem clearBlanksDisplay : Obligations.ClearBlanksDisplay := by
  refine ⟨encoded_of_encode (fun op h => h.symm.trans (and_FFFF op)) fun _ => rfl, fun s => ?_⟩
  have frame : UnchangedExcept [.display] s (s.setFb Framebuffer.blank) :=
    (Keeps.refl (· ∈ [Part.display]) s).setFb (by simp) _
  exact ⟨_, rfl, Framebuffer.pixel_blank, pcAdvanced_and_unchanged_advance frame (by simp)⟩

end Sys2Proof.Proofs
end

section
/-! The key input as the skips see it, the timers and the load port under an event, a block whose burst is stopped, the
release that ends a key wait, and the proofs of the timer and keypad family (44_timers_keypad.md). -/

namespace Sys2Proof.Machine

open Sys2Proof.Claims

variable {s t u : State} {i : Instr} {w : Part → Prop} {k : Key} {rest : List Event}

/-! ## The key skips -/

/-- The key at the next sample is a bit of the sample, or the free answer above 0xF (44_timers_keypad.md R260). -/
theorem State.keyDown_iff (s : State) (vx : Byte) : s.keyDown vx = true ↔ KeyIsDown s vx := by
  unfold State.keyDown keyDownOf KeyIsDown
  split
  · next hkey => simp [hkey, Nat.not_le.2 hkey]
  · next hkey => simp [hkey, Nat.not_lt.1 hkey]

/-- An instruction that is a `skipIf` with one sample counted skips on its condition and writes nothing else. -/
theorem completes_of_skipIf_countDraw {taken : Prop} {b : Bool} (h : exec i s = .next (s.skipIf b).countDraw)
    (hb : b = true ↔ taken) :
    Completes i s fun t => PcSkipped taken s t ∧ t.draws = s.draws + 1 ∧ UnchangedExcept [.pc, .draws] s t :=
  ⟨_, h, s.pcSkipped_skipIf hb, rfl,
    ((Keeps.refl (· ∈ [Part.pc, .draws]) s).setPc (by simp) _).countDraw (by simp)⟩

/-! ## Frames in a row, and the frames of the host's side -/

theorem Part.same.trans {p : Part} (hst : p.same s t) (htu : p.same t u) : p.same s u := by
  cases p <;> exact Eq.trans htu hst

theorem Keeps.trans (hst : Keeps w s t) (htu : Keeps w t u) : Keeps w s u := fun p hp => (hst p hp).trans (htu p hp)

theorem UnchangedExcept.mono {written written' : List Part} (h : UnchangedExcept written s t)
    (hsub : written ⊆ written') : UnchangedExcept written' s t := fun p hp => h p (mt (@hsub p) hp)

/-- A part that reads the same need not be in the frame. -/
theorem UnchangedExcept.of_cons {p : Part} {written : List Part} (h : UnchangedExcept (p :: written) s t)
    (hp : p.same s t) : UnchangedExcept written s t := fun q hq => by
  by_cases hqp : q = p
  · exact hqp ▸ hp
  · exact h q (by simp [hqp, hq])

theorem Keeps.setBurst (h : Keeps w s t) (hw : w .burst) (b : Option Nat) : Keeps w s (t.setBurst b) := fun p hp => by
  cases p with
  | burst => exact absurd hw hp
  | _ => exact h _ hp

theorem Keeps.redraw (h : Keeps w s t) (hw : w .outputs) : Keeps w s t.redraw := fun p hp => by
  cases p with
  | outputs => exact absurd hw hp
  | _ => exact h _ hp

theorem Keeps.endTick (h : Keeps w s t) (ho : w .outputs) (hb : w .burst) : Keeps w s t.endTick :=
  (h.redraw ho).setBurst hb none

theorem Keeps.closeLoad (h : Keeps w s t) (hw : w .loadPhase) : Keeps w s t.closeLoad := fun p hp => by
  cases p with
  | loadPhase => exact absurd hw hp
  | _ => exact h _ hp

theorem Keeps.countTimers (h : Keeps w s t) (hdt : w .dt) (hst : w .st) (ho : w .outputs) : Keeps w s t.countTimers :=
  fun p hp => by
  cases p with
  | dt => exact absurd hdt hp
  | st => exact absurd hst hp
  | outputs => exact absurd ho hp
  | _ => exact h _ hp

/-- A load port that is closed already is closed by nothing. -/
theorem State.closeLoad_of_closed (hl : s.loadPhase = false) : s.closeLoad = s := by
  rw [State.closeLoad, ← hl]

/-! ## Events after the load phase -/

/-- A release while waiting (44_timers_keypad.md R267). -/
theorem State.deliver_keyRelease_of_waiting (hw : s.waiting = true) (k : Key) :
    State.deliver (.keyRelease k) s =
      ((s.setReg s.waitRegister (k.setWidth 8)).setWaiting false).advance.closeLoad := if_pos hw

/-- A release while not waiting (44_timers_keypad.md R268). -/
theorem State.deliver_keyRelease_of_not_waiting (hw : s.waiting = false) (k : Key) :
    State.deliver (.keyRelease k) s = s.closeLoad := if_neg (by simp [hw])

/-- After the load phase a tick counts the timers and opens a burst (60_exceptions.md R301). -/
theorem State.deliver_tick_of_closed (hl : s.loadPhase = false) :
    State.deliver .tick s = s.countTimers.setBurst (some Config.stepsPerTick) := State.closeLoad_of_closed hl

/-- What an event is after the load phase: a reset, a release that ends a key wait, or nothing but timers, signals and
an opened burst (60_exceptions.md R300, 44_timers_keypad.md R270). -/
theorem State.deliver_cases (hl : s.loadPhase = false) (e : Event) :
    e = .reset ∨ (s.waiting = true ∧ ∃ k, e = .keyRelease k) ∨
    UnchangedExcept [.dt, .st, .outputs, .burst] s (State.deliver e s) := by
  have start : Keeps (· ∈ [Part.dt, .st, .outputs, .burst]) s s := .refl _ s
  cases e with
  | reset => exact .inl rfl
  | load a b =>
    rw [State.deliver_load_of_closed hl]
    exact .inr (.inr start)
  | tick =>
    rw [State.deliver_tick_of_closed hl]
    exact .inr (.inr ((start.countTimers (by simp) (by simp) (by simp)).setBurst (by simp) _))
  | keyRelease k =>
    cases hw : s.waiting with
    | true => exact .inr (.inl ⟨rfl, k, rfl⟩)
    | false =>
      rw [State.deliver_keyRelease_of_not_waiting hw, State.closeLoad_of_closed hl]
      exact .inr (.inr start)
  | repaint =>
    change _ ∨ _ ∨ UnchangedExcept _ s s.redraw.closeLoad
    rw [State.closeLoad_of_closed (s := s.redraw) hl]
    exact .inr (.inr (start.redraw (by simp)))

/-! ## A block that runs no instruction -/

/-- A block that waits or is faulted, after the load phase: a step takes a reset, or a release that ends the wait, or
changes nothing but the timers and the host's side (44_timers_keypad.md R270, 60_exceptions.md R309). -/
theorem step_cases_of_stopped (hl : s.loadPhase = false) (hc : s.canStep = false) (h : step s = .next t) :
    (s.burst = none ∧ ∃ rest, s.events = .reset :: rest ∨ (s.waiting = true ∧ ∃ k, s.events = .keyRelease k :: rest)) ∨
    UnchangedExcept [.dt, .st, .outputs, .burst, .events] s t := by
  have start : Keeps (· ∈ [Part.dt, .st, .outputs, .burst, .events]) s s := .refl _ s
  obtain ⟨-, -, hm⟩ | ⟨e, es, hb, he, hm⟩ | ⟨k, -, -, hm⟩ | ⟨k, -, hrun, -⟩ := s.move_cases
  · obtain ⟨-, rfl⟩ := State.atRest_eq_next_iff.1 (hm.symm.trans h)
    exact .inr start
  · cases hm.symm.trans h
    obtain rfl | ⟨hw, k, rfl⟩ | frame := State.deliver_cases (s := s.setEvents es) hl e
    · exact .inl ⟨hb, es, .inl he⟩
    · exact .inl ⟨hb, es, .inr ⟨hw, k, he⟩⟩
    · exact .inr ((start.setEvents (by simp) es).trans (frame.mono (by simp)))
  · cases hm.symm.trans h
    exact .inr (start.endTick (by simp) (by simp))
  · simp [hc] at hrun

theorem State.canStep_of_waiting (hw : s.waiting = true) : s.canStep = false := by
  simp [State.canStep, hw]

/-! ## The register that a release writes -/

theorem State.waitRegister_val (s : State) : s.waitRegister.val = (s.readByte s.pc).toNat % 16 := by
  have hlow : (s.readByte s.pc &&& 0x0F).toNat = (s.readByte s.pc).toNat % 16 :=
    Nat.and_two_pow_sub_one_eq_mod (s.readByte s.pc).toNat 4
  exact (congrArg (· % 16) hlow).trans (Nat.mod_mod ..)

/-- The mask of R267 and the reduction to a register's number name the same register. -/
theorem State.waitRegister_eq (s : State) : s.waitRegister = Fin.ofNat 16 (s.readByte s.pc).toNat :=
  Fin.ext s.waitRegister_val

/-- The register is the x of the Fx0A at PC (44_timers_keypad.md R267, decision D23). -/
theorem State.waitRegister_of_current {x : Reg} (h : s.current = .ldVxK x) : s.waitRegister = x := by
  have hfetch : packImm 0xF x 0x0A = s.fetch := (congrArg encode h).symm.trans (encode_decode s.fetch)
  have hx : fieldX s.fetch = x := hfetch ▸ fieldX_packImm ..
  refine Fin.ext (s.waitRegister_val.trans ?_)
  rw [← hx, fieldX_val, State.fetch_high]

theorem State.waitRegister_congr (h : Keeps w s t) (hpc : ¬ w .pc) (hbyte : ∀ a, ¬ w (.byte a)) :
    t.waitRegister = s.waitRegister := by
  have hpcs : t.pc = s.pc := h .pc hpc
  have hread : t.readByte s.pc = s.readByte s.pc := h (.byte s.pc) (hbyte _)
  rw [State.waitRegister, State.waitRegister, hpcs, hread]

/-- A release that ends a key wait, as a step (44_timers_keypad.md R267). -/
theorem step_keyRelease_of_waiting (hw : s.waiting = true) (hb : s.burst = none)
    (he : s.events = .keyRelease k :: rest) :
    ∃ t, step s = .next t ∧ (t.reg s.waitRegister).toNat = k.toNat ∧ t.waiting = false ∧ PcAdvanced s t ∧
      t.events = rest ∧ t.loadPhase = false ∧
      UnchangedExcept [.reg s.waitRegister, .waiting, .pc, .events, .loadPhase] s t := by
  refine ⟨_, (step_of_event hb he).trans (congrArg _ (State.deliver_keyRelease_of_waiting (by exact hw) k)), ?_, rfl,
    s.next_toNat, rfl, rfl, ?_⟩
  · have hkey : (k.setWidth 8).toNat = k.toNat := by
      rw [BitVec.toNat_setWidth]
      omega
    exact (congrArg BitVec.toNat ((s.reg_setReg s.waitRegister _ _).trans (if_pos rfl))).trans hkey
  · have start : Keeps (· ∈ [Part.reg s.waitRegister, .waiting, .pc, .events, .loadPhase]) s s := .refl _ s
    have written := (start.setEvents (by simp) rest).setReg (x := s.waitRegister) (by simp) (k.setWidth 8)
    exact ((written.setWaiting (by simp) false).setPc (by simp) s.next).closeLoad (by simp)

/-! ## The ticks of a key wait -/

theorem countDown_toNat (b : Byte) : (countDown b).toNat = b.toNat - 1 := by
  unfold countDown
  split
  · next hb =>
    have hpos : b.toNat ≠ 0 := fun e => hb (BitVec.eq_of_toNat_eq e)
    rw [byte_sub_toNat, show (1 : Byte).toNat = 1 from rfl]
    omega
  · next hb => simp [not_not.1 hb]

/-- One tick of a waiting block is two steps: the timers, and the redraw (60_exceptions.md R301, log 1). -/
theorem run_tick_of_waiting (hw : s.waiting = true) (hl : s.loadPhase = false) (hb : s.burst = none)
    (he : s.events = .tick :: rest) :
    Host.Core.run Sys2Proof.core 2 s = .next (s.setEvents rest).countTimers.endTick := by
  have hbegin := (step_of_event hb he).trans (congrArg _ (State.deliver_tick_of_closed (s := s.setEvents rest) hl))
  exact (run_of_step (n := 1) hbegin).trans
    (run_of_step (n := 0) (step_of_stopped rfl (.inr (State.canStep_of_waiting hw))))

/-- An Fx0A that runs, and the end of its tick, are two steps (44_timers_keypad.md R264, log 1). -/
theorem run_keyWait {b : Nat} {x : Reg} (hb : s.burst = some (b + 1)) (hc : s.canStep = true)
    (hx : s.current = .ldVxK x) : Host.Core.run Sys2Proof.core 2 s = .next (s.setWaiting true).endTick := by
  have hwait : step s = .next ((s.setBurst (some b)).setWaiting true) := by
    rw [step_of_canStep hb hc, hx]
    rfl
  exact (run_of_step (n := 1) hwait).trans
    (run_of_step (n := 0) (step_of_stopped rfl (.inr (State.canStep_of_waiting rfl))))

/-- m ticks of a waiting block count both timers down by m, and it goes on waiting (44_timers_keypad.md R270). -/
theorem run_ticks_of_waiting (hw : s.waiting = true) (hl : s.loadPhase = false) (hb : s.burst = none) {m : Nat}
    (he : s.events = List.replicate m .tick ++ rest) :
    ∃ t : State, Host.Core.run Sys2Proof.core (2 * m) s = .next t ∧ t.dt.toNat = s.dt.toNat - m ∧
      t.st.toNat = s.st.toNat - m ∧ t.events = rest ∧ t.burst = none ∧
      UnchangedExcept [.dt, .st, .outputs, .events, .burst] s t := by
  induction m generalizing s with
  | zero => exact ⟨s, rfl, rfl, rfl, he, hb, Keeps.refl _ s⟩
  | succ m ih =>
    obtain ⟨t, ht, hdt, hst, hevents, hburst, htail⟩ :=
      ih (s := (s.setEvents (List.replicate m Event.tick ++ rest)).countTimers.endTick) hw hl rfl rfl
    refine ⟨t, ?_, hdt.trans ?_, hst.trans ?_, hevents, hburst, Keeps.trans ?_ htail⟩
    · rw [Nat.mul_succ, Nat.add_comm]
      exact (run_add (run_tick_of_waiting hw hl hb he)).trans ht
    · exact (congrArg (· - m) (countDown_toNat s.dt)).trans (by omega)
    · exact (congrArg (· - m) (countDown_toNat s.st)).trans (by omega)
    · have start : Keeps (· ∈ [Part.dt, .st, .outputs, .events, .burst]) s s := .refl _ s
      exact ((start.setEvents (by simp) _).countTimers (by simp) (by simp) (by simp)).endTick (by simp) (by simp)

end Sys2Proof.Machine

namespace Sys2Proof.Proofs

open Sys2Proof.Machine Sys2Proof.Claims

/-! ## The obligations of the timer and keypad family -/

/-- Settles O33: both are a `skipIf` on the sampled key, with the sample counted. -/
theorem keySkipsFollowSample : Obligations.KeySkipsFollowSample := by
  refine ⟨encoded_of_encode (fun _ h => packImm_word_of_low_byte h rfl rfl) fun _ => rfl,
    encoded_of_encode (fun _ h => packImm_word_of_low_byte h rfl rfl) fun _ => rfl, fun s x => ⟨?_, ?_⟩⟩
  · exact completes_of_skipIf_countDraw rfl (s.keyDown_iff _)
  · refine completes_of_skipIf_countDraw rfl ?_
    rw [Bool.not_eq_true', ← Bool.not_eq_true, s.keyDown_iff]

/-- Settles O34: Fx07 is a write of Vx, and DT's row of the written-by column names Fx15 alone (`exec_keeps`). -/
theorem delayTimerRead : Obligations.DelayTimerRead := by
  refine ⟨encoded_of_encode (fun _ h => packImm_word_of_low_byte h rfl rfl) fun _ => rfl,
    fun _ _ => completes_of_setReg rfl, fun i s hi => ?_⟩
  obtain ⟨t, h⟩ := exec_completes i s
  exact ⟨t, h, exec_keeps h .dt fun ⟨x, hx⟩ => hi x hx⟩

/-- Settles O35: LD DT is a write of DT. -/
theorem delayTimerWritten : Obligations.DelayTimerWritten := by
  refine ⟨encoded_of_encode (fun _ h => packImm_word_of_low_byte h rfl rfl) fun _ => rfl, fun s x => ⟨_, rfl, rfl, ?_⟩⟩
  exact pcAdvanced_and_unchanged_advance ((Keeps.refl (· ∈ [Part.dt]) s).setDt (by simp) _) (by simp)

/-- Settles O36: LD ST is a write of ST, and the emitted signals are as before. -/
theorem soundTimerWrittenSilently : Obligations.SoundTimerWrittenSilently := by
  refine ⟨encoded_of_encode (fun _ h => packImm_word_of_low_byte h rfl rfl) fun _ => rfl,
    fun s x => ⟨_, rfl, rfl, rfl, ?_⟩⟩
  exact pcAdvanced_and_unchanged_advance ((Keeps.refl (· ∈ [Part.st]) s).setSt (by simp) _) (by simp)

/-- Settles O37: Fx0A is a write of the waiting flag. -/
theorem keyWaitEntered : Obligations.KeyWaitEntered :=
  ⟨encoded_of_encode (fun _ h => packImm_word_of_low_byte h rfl rfl) fun _ => rfl,
    fun s _ => ⟨_, rfl, rfl, (Keeps.refl (· ∈ [Part.waiting]) s).setWaiting (by simp) true⟩⟩

/-- Settles O50: a sound waiting block is past the load phase, and `step_cases_of_stopped` says what its steps are. -/
theorem waitingBlockOnlyCountsAndRedraws : Obligations.WaitingBlockOnlyCountsAndRedraws := by
  intro s t hs hw h
  have hl : s.loadPhase = false := Bool.eq_false_iff.2 fun hopen => by
    obtain ⟨hnot, -, -⟩ := hs.load hopen
    simp [hw] at hnot
  obtain ⟨hb, es, htaken⟩ | frame := step_cases_of_stopped hl (State.canStep_of_waiting hw) h
  · exact .inl ⟨hb, es, htaken.imp_right And.right⟩
  · have hsame : t.waiting = s.waiting := frame .waiting (by simp)
    exact .inr ⟨hsame.trans hw, frame⟩

/-- Settles O42: the release is the step (`step_withEvent`), and the flag says which of its two cases it is. -/
theorem keyReleaseResolvesWait : Obligations.KeyReleaseResolvesWait := by
  intro s k rest
  have queued {w : Part → Prop} (hw : w .events) (es : List Event) :
      Keeps w (s.setBurst none) ((s.setBurst none).setEvents es) := (Keeps.refl w _).setEvents hw es
  cases hw : s.waiting with
  | true =>
    obtain ⟨t, h, hkey, hwait, hpc, hevents, hload, frame⟩ :=
      step_keyRelease_of_waiting (s := withEvent s (.keyRelease k) rest) hw rfl rfl
    rw [State.waitRegister_eq] at hkey frame
    exact ⟨t, h, hevents, hload, fun _ => ⟨hkey, hwait, hpc, (queued (by simp) _).trans frame⟩, nofun⟩
  | false =>
    refine ⟨_, step_withEvent s (.keyRelease k) rest, ?_⟩
    rw [State.deliver_keyRelease_of_not_waiting (by exact hw)]
    exact ⟨rfl, rfl, nofun, fun _ => (queued (by simp) rest).closeLoad (by simp)⟩

/-- Settles O43: the Fx0A and the end of its tick, m ticks of the waiting block, the release. -/
theorem keyWaitRoundTrip : Obligations.KeyWaitRoundTrip := by
  intro s b m x k hb hw hf hl hx he
  have hentered := run_keyWait hb (s.canStep_iff.2 ⟨hw, hf⟩) hx
  obtain ⟨u, hticks, hdt, hst, hevents, hburst, hcounted⟩ :=
    run_ticks_of_waiting (s := (s.setWaiting true).endTick) rfl hl rfl he
  have hwaits : u.waiting = true := hcounted .waiting (by simp)
  have hpcs : u.pc = s.pc := hcounted .pc (by simp)
  have hx' : u.waitRegister = x :=
    (State.waitRegister_congr hcounted (by simp) (by simp)).trans (State.waitRegister_of_current hx)
  obtain ⟨t, hrelease, hkey, hwait, hpc, hnone, hload, hresolved⟩ := step_keyRelease_of_waiting hwaits hburst hevents
  rw [hx'] at hkey hresolved
  have hdts : t.dt = u.dt := hresolved .dt (by simp)
  have hsts : t.st = u.st := hresolved .st (by simp)
  have hbursts : t.burst = u.burst := hresolved .burst (by simp)
  rw [PcAdvanced, hpcs] at hpc
  refine ⟨t, ?_, hkey, hwait, hpc, hdts ▸ hdt, hsts ▸ hst, hnone, hbursts.trans hburst, ?_⟩
  · rw [show 2 * m + 3 = 2 + (2 * m + 1) by omega]
    exact (run_add hentered).trans ((run_add hticks).trans (run_of_step (n := 0) hrelease))
  · have entered : UnchangedExcept [.waiting, .outputs, .burst] s (s.setWaiting true).endTick :=
      ((Keeps.refl (· ∈ [Part.waiting, .outputs, .burst]) s).setWaiting (by simp) true).endTick (by simp) (by simp)
    have whole : UnchangedExcept [.waiting, .loadPhase, .reg x, .pc, .dt, .st, .outputs, .events, .burst] s t :=
      Keeps.trans (entered.mono (by simp)) (Keeps.trans (hcounted.mono (by simp)) (hresolved.mono (by simp)))
    exact (whole.of_cons (hwait.trans hw.symm)).of_cons (hload.trans hl.symm)

end Sys2Proof.Proofs
end

section
/-! A stopped or faulted block, the answers of a step, the burst of a tick run step by step, the timers as an instruction
sees them, and the proofs of the scheduler family (60_exceptions.md). -/

namespace Sys2Proof.Machine

variable {s t : State} {i : Instr} {f : Fault}

/-! ## A block that runs no instruction -/

theorem State.canStep_eq_false_iff (s : State) : s.canStep = false ↔ s.waiting = true ∨ s.fault ≠ .noFault := by
  rw [← Bool.not_eq_true, s.canStep_iff, not_and_or, Bool.not_eq_false]

/-- A sound faulted block is past its load phase (20_memory.md R86). -/
theorem State.Sound.loadPhase_of_faulted (hs : s.Sound) (hf : s.fault ≠ .noFault) : s.loadPhase = false :=
  Bool.eq_false_iff.2 fun hopen => by
    obtain ⟨-, hclear, -⟩ := hs.load hopen
    exact hf hclear

/-- A sound faulted block does not wait, so a step of it takes a reset or changes nothing but the timers and the host's
side (60_exceptions.md R309). -/
theorem step_cases_of_faulted (hs : s.Sound) (hf : s.fault ≠ .noFault) (h : step s = .next t) :
    (s.burst = none ∧ ∃ rest, s.events = .reset :: rest) ∨
    UnchangedExcept [.dt, .st, .outputs, .burst, .events] s t := by
  obtain ⟨hb, rest, hreset | ⟨hw, -⟩⟩ | frame :=
    step_cases_of_stopped (hs.loadPhase_of_faulted hf) (s.canStep_eq_false_iff.2 (.inr hf)) h
  · exact .inl ⟨hb, rest, hreset⟩
  · exact absurd ⟨hw, hf⟩ hs.exclusive
  · exact .inr frame

/-! ## The answers of a step -/

/-- At rest a faulted block answers the fault of its code (60_exceptions.md R309, log 3). -/
theorem State.atRest_eq_fault_iff : s.atRest = .fault f ↔
    (s.fault = .stackOverflow ∧ f = .stackOverflow) ∨ (s.fault = .stackUnderflow ∧ f = .stackUnderflow) := by
  unfold State.atRest
  cases s.fault <;> simp [eq_comm]

theorem State.atRest_ne_refused (s : State) (r : Refusal) : s.atRest ≠ .refused r := by
  unfold State.atRest
  split <;> nofun

/-- A step that is not at rest completes: an event, the end of a tick, an instruction (60_exceptions.md R305). -/
theorem step_completes_of_not_rest (h : ¬ (s.burst = none ∧ s.events = [])) : ∃ t, step s = .next t := by
  obtain ⟨hb, he, -⟩ | ⟨e, es, -, -, hm⟩ | ⟨k, -, -, hm⟩ | ⟨k, -, -, hm⟩ := s.move_cases
  · exact absurd ⟨hb, he⟩ h
  · exact ⟨_, hm⟩
  · exact ⟨_, hm⟩
  · obtain ⟨t, ht⟩ := exec_completes s.current (s.setBurst (some k))
    exact ⟨t, hm.trans ht⟩

theorem step_ne_refused (s : State) (r : Refusal) : step s ≠ .refused r := by
  by_cases h : s.burst = none ∧ s.events = []
  · exact step_of_rest h.1 h.2 ▸ s.atRest_ne_refused r
  · obtain ⟨t, ht⟩ := step_completes_of_not_rest h
    exact ht ▸ nofun

/-- A step faults exactly at rest, as the fault register says (60_exceptions.md R309, log 3). -/
theorem step_eq_fault_iff :
    step s = .fault f ↔ s.burst = none ∧ s.events = [] ∧
      ((s.fault = .stackOverflow ∧ f = .stackOverflow) ∨ (s.fault = .stackUnderflow ∧ f = .stackUnderflow)) := by
  rw [← State.atRest_eq_fault_iff, ← and_assoc]
  by_cases h : s.burst = none ∧ s.events = []
  · rw [step_of_rest h.1 h.2, and_iff_right h]
  · obtain ⟨t, ht⟩ := step_completes_of_not_rest h
    simp [ht, h]

/-! ## A step inside a tick -/

/-- A step inside a tick ends it, or runs one instruction of its burst and leaves the host's side but the burst counter
(60_exceptions.md R304). -/
theorem step_inside_tick {k : Nat} (hb : s.burst = some k) (h : step s = .next t) :
    t.events = s.events ∧ t.loadPhase = s.loadPhase ∧ (t.burst = none ∨ ∃ j, k = j + 1 ∧ t.burst = some j) := by
  obtain ⟨hnone, -, -⟩ | ⟨e, es, hnone, -, -⟩ | ⟨j, -, -, hm⟩ | ⟨j, hj, -, hm⟩ := s.move_cases
  · simp [hb] at hnone
  · simp [hb] at hnone
  · cases hm.symm.trans h
    exact ⟨rfl, rfl, .inl rfl⟩
  · obtain ⟨hevents, hburst, hload, -⟩ := exec_host _ (hm.symm.trans h)
    exact ⟨hevents, hload, .inr ⟨j, Option.some.inj (hb.symm.trans hj), hburst⟩⟩

/-- The word whose high and low byte stand at PC and at PC + 1 is the opcode fetched (20_memory.md R73). -/
theorem State.fetch_eq_of_bytes {op : Opcode} (hhigh : (s.readByte s.pc).toNat = op.toNat / 256)
    (hlow : (s.readByte (mask12 (s.pc.toNat + 1))).toNat = op.toNat % 256) : s.fetch = op := by
  apply BitVec.eq_of_toNat_eq
  have := s.fetch_high
  have := s.fetch_low
  omega

/-! ## The burst of a tick, step by step -/

/-- A burst that is used up or stopped runs nothing (60_exceptions.md R304). -/
theorem burstLoop_of_stopped {k : Nat} (h : k = 0 ∨ s.canStep = false) : burstLoop k s = .next s := by
  cases k with
  | zero => rfl
  | succ k => exact if_neg (by simp [h.resolve_left k.succ_ne_zero])

/-- A burst that goes on runs the instruction at PC first (60_exceptions.md R304, R305). -/
theorem burstLoop_of_canStep {k : Nat} (hc : s.canStep = true) (h : exec s.current s = .next t) :
    burstLoop (k + 1) s = burstLoop k t := by
  rw [burstLoop, if_pos hc, h]
  rfl

/-- The steps inside a tick run its burst and end with its redraw, at most one step more than the burst holds
(60_exceptions.md R301, R304, log 1). -/
theorem run_burst (k : Nat) (s : State) :
    ∃ n t, n ≤ k + 1 ∧ burstLoop k s = .next t ∧
      Host.Core.run Sys2Proof.core n (s.setBurst (some k)) = .next t.endTick ∧
      t.burst = s.burst ∧ t.events = s.events := by
  have stopped {k : Nat} {s : State} (h : k = 0 ∨ s.canStep = false) :
      Host.Core.run Sys2Proof.core 1 (s.setBurst (some k)) = .next s.endTick :=
    run_of_step (n := 0) (step_of_stopped (s := s.setBurst (some k)) rfl h)
  induction k generalizing s with
  | zero => exact ⟨1, s, le_refl 1, rfl, stopped (.inl rfl), rfl, rfl⟩
  | succ k ih =>
    cases hc : s.canStep with
    | false => exact ⟨1, s, by omega, burstLoop_of_stopped (.inr hc), stopped (.inr hc), rfl, rfl⟩
    | true =>
      obtain ⟨u, hu⟩ := exec_completes s.current s
      have hstep : step (s.setBurst (some (k + 1))) = .next (u.setBurst (some k)) := by
        refine (step_of_canStep (s := s.setBurst (some (k + 1))) rfl hc).trans ?_
        exact (exec_setBurst s.current s (some k)).trans (by rw [hu]; rfl)
      obtain ⟨hevents, hburst, -, -⟩ := exec_host _ hu
      obtain ⟨n, t, hn, hloop, hrun, hburst', hevents'⟩ := ih u
      exact ⟨n + 1, t, by omega, (burstLoop_of_canStep hc hu).trans hloop, (run_of_step hstep).trans hrun,
        hburst'.trans hburst, hevents'.trans hevents⟩

/-- Between events the end of a tick is its redraw. -/
theorem State.endTick_of_between (hb : s.burst = none) : s.endTick = s.redraw := by
  have hredraw : s.redraw.burst = none := hb
  rw [State.endTick, State.setBurst, ← hredraw]

/-- Every event but a tick is delivered whole, by one step (60_exceptions.md R300). -/
theorem State.wholeEvent_eq_deliver {e : Event} (he : e ≠ .tick) (s : State) :
    State.wholeEvent e s = .next (State.deliver e s) := by
  cases e with
  | tick => exact absurd rfl he
  | _ => rfl

/-- Every event but a tick leaves a state between events, with the later events untouched (60_exceptions.md R300). -/
theorem State.deliver_between {e : Event} (he : e ≠ .tick) (hb : s.burst = none) :
    (State.deliver e s).burst = none ∧ (State.deliver e s).events = s.events := by
  cases e with
  | tick => exact absurd rfl he
  | load a b =>
    cases hl : s.loadPhase with
    | true => rw [State.deliver_load_of_open hl]; exact ⟨hb, rfl⟩
    | false => rw [State.deliver_load_of_closed hl]; exact ⟨hb, rfl⟩
  | keyRelease k =>
    cases hw : s.waiting with
    | true => rw [State.deliver_keyRelease_of_waiting hw]; exact ⟨hb, rfl⟩
    | false => rw [State.deliver_keyRelease_of_not_waiting hw]; exact ⟨hb, rfl⟩
  | reset => exact ⟨rfl, rfl⟩
  | repaint => exact ⟨hb, rfl⟩

/-- The burst that a tick opens, run and redrawn, is the whole tick (60_exceptions.md R301). -/
theorem run_tick (hb : s.burst = none) (steps : Nat) :
    ∃ n t, n ≤ steps + 1 ∧ Host.Core.run Sys2Proof.core n (s.beginTick steps) = .next t ∧
      s.wholeTick steps = .next t ∧ t.burst = none ∧ t.events = s.events := by
  obtain ⟨n, t, hn, hloop, hrun, hburst, hevents⟩ := run_burst steps s.countTimers.closeLoad
  have hnone : t.burst = none := hburst.trans hb
  rw [State.endTick_of_between hnone] at hrun
  exact ⟨n, t.redraw, hn, hrun, by rw [State.wholeTick, hloop]; rfl, hnone, hevents⟩

/-! ## The tone of a tick -/

theorem toneSignal_of_one {b c : Byte} (h : b.toNat = 1) : toneSignal b c = [.toneStop] :=
  if_pos (BitVec.eq_of_toNat_eq h)

theorem toneSignal_countDown_of_ge_two {b : Byte} (h : b.toNat ≥ 2) : toneSignal b (countDown b) = [.toneStart] := by
  have hone : b ≠ 1 := fun e => by simp [e] at h
  have hleft : countDown b ≠ 0 := fun e => by
    have := countDown_toNat b
    simp [e] at this
    omega
  rw [toneSignal, if_neg hone, if_pos hleft]

theorem toneSignal_countDown_of_zero {b : Byte} (h : b.toNat = 0) : toneSignal b (countDown b) = [] := by
  obtain rfl : b = 0 := BitVec.eq_of_toNat_eq h
  rfl

/-! ## The timers as an instruction sees them -/

/-- The state with other values in the two timers. -/
def State.setTimers (s : State) (d b : Byte) : State := (s.setDt d).setSt b

/-- Storing registers does not look at the timers and keeps them. -/
theorem State.storeRange_setTimers (s : State) (d b : Byte) (n : Nat) :
    (s.setTimers d b).storeRange n = (s.storeRange n).setTimers d b := by
  induction n with
  | zero => rfl
  | succ n ih => rw [State.storeRange_succ, State.storeRange_succ, ih]; rfl

/-- Loading registers does not look at the timers and keeps them. -/
theorem State.loadRange_setTimers (s : State) (d b : Byte) (n : Nat) :
    (s.setTimers d b).loadRange n = (s.loadRange n).setTimers d b := by
  induction n with
  | zero => rfl
  | succ n ih => rw [State.loadRange_succ, State.loadRange_succ, ih]; rfl

/-- An instruction run with other timers ends in the same state but for the timers, unless it is an Fx07 that meets
another DT; and a timer that was the same before is the same after (60_exceptions.md R302, R314). -/
theorem exec_setTimers {d b : Byte} (hi : (∀ x, i ≠ .ldVxDT x) ∨ d = s.dt) (h : exec i s = .next t) :
    ∃ d' b', exec i (s.setTimers d b) = .next (t.setTimers d' b') ∧ (d = s.dt → d' = t.dt) ∧ (b = s.st → b' = t.st) := by
  cases i with
  | ldVxDT x =>
    obtain rfl : d = s.dt := hi.resolve_left fun hne => hne x rfl
    cases h
    exact ⟨s.dt, b, rfl, id, id⟩
  | ldDTVx x => cases h; exact ⟨s.reg x, b, rfl, fun _ => rfl, id⟩
  | ldSTVx x => cases h; exact ⟨d, s.reg x, rfl, id, fun _ => rfl⟩
  | call nnn =>
    obtain ⟨hfull, rfl⟩ | ⟨hroom, rfl⟩ := exec_call_cases h
    · exact ⟨d, b, exec_call_of_full (s := s.setTimers d b) hfull, id, id⟩
    · exact ⟨d, b, exec_call_of_room (s := s.setTimers d b) hroom, id, id⟩
  | ret =>
    obtain ⟨hnil, rfl⟩ | ⟨a, l, hl, rfl⟩ := exec_ret_cases h
    · exact ⟨d, b, exec_ret_of_nil (s := s.setTimers d b) hnil, id, id⟩
    · exact ⟨d, b, exec_ret_of_append (s := s.setTimers d b) hl, id, id⟩
  | storeRegs x =>
    have hkeeps := exec_keeps h
    cases h
    exact ⟨d, b, congrArg (fun t : State => Host.Outcome.next t.advance) (s.storeRange_setTimers d b _),
      fun e => e.trans (hkeeps .dt nofun).symm, fun e => e.trans (hkeeps .st nofun).symm⟩
  | loadRegs x =>
    have hkeeps := exec_keeps h
    cases h
    exact ⟨d, b, congrArg (fun t : State => Host.Outcome.next t.advance) (s.loadRange_setTimers d b _),
      fun e => e.trans (hkeeps .dt nofun).symm, fun e => e.trans (hkeeps .st nofun).symm⟩
  | _ => cases h; exact ⟨d, b, rfl, id, id⟩

end Sys2Proof.Machine

namespace Sys2Proof.Proofs

open Sys2Proof.Machine

/-! ## The obligations of the scheduler family -/

/-- Settles O49: a sound faulted block takes a reset or keeps the frame (`step_cases_of_faulted`), and the fault register
is outside the frame. -/
theorem faultedBlockOnlyCountsAndRedraws : Obligations.FaultedBlockOnlyCountsAndRedraws := fun s t hs hf h =>
  (step_cases_of_faulted hs hf h).imp_right fun frame => ⟨frame .fault (by simp), frame⟩

/-- Settles O46: a tick is its opening step and the steps of its burst (`run_tick`); every other event is one step. -/
theorem stepsMakeWholeEvents : Obligations.StepsMakeWholeEvents := by
  intro s e rest
  have first := step_withEvent s e rest
  by_cases he : e = .tick
  · subst he
    obtain ⟨n, t, hn, hrun, hwhole, hburst, hevents⟩ :=
      run_tick (s := (s.setBurst none).setEvents rest) rfl Config.stepsPerTick
    exact ⟨n + 1, t, by omega, (run_of_step first).trans hrun, hwhole, hburst, hevents⟩
  · obtain ⟨hburst, hevents⟩ := State.deliver_between (s := (s.setBurst none).setEvents rest) he rfl
    exact ⟨1, _, by omega, run_of_step (n := 0) first, State.wholeEvent_eq_deliver he _, hburst, hevents⟩

/-- Settles O47: the end of the tick, or an instruction, which leaves the host's side alone (`exec_host`). -/
theorem noEventInsideTick : Obligations.NoEventInsideTick := fun _ _ _ => step_inside_tick

/-- Settles O48: only a step at rest answers anything but a next state (`step_completes_of_not_rest`). -/
theorem stepFaultsOnlyAtRestWhenFaulted : Obligations.StepFaultsOnlyAtRestWhenFaulted :=
  fun s => ⟨step_ne_refused s, fun _ => step_eq_fault_iff⟩

/-- Settles O56: the instruction with one other timer ends in the same state but for that timer (`exec_setTimers`). -/
theorem timersAreSeenOnlyThroughFx07 : Obligations.TimersAreSeenOnlyThroughFx07 := by
  refine ⟨fun i s d hi => ?_, fun i s b => ?_⟩
  · obtain ⟨t, h⟩ := exec_completes i s
    obtain ⟨d', b', hu, -, hst⟩ := exec_setTimers (d := d) (b := s.st) (.inl hi) h
    obtain rfl := hst rfl
    exact ⟨t, h, t.setDt d', hu, (Keeps.refl (· ∈ [Part.dt]) t).setDt (by simp) d'⟩
  · obtain ⟨t, h⟩ := exec_completes i s
    obtain ⟨d', b', hu, hdt, -⟩ := exec_setTimers (d := s.dt) (b := b) (.inr rfl) h
    obtain rfl := hdt rfl
    exact ⟨t, h, t.setSt b', hu, (Keeps.refl (· ∈ [Part.st]) t).setSt (by simp) b'⟩

/-- Settles O7: the two bytes make up the opcode fetched (`State.fetch_eq_of_bytes`), and the burst goes on. -/
theorem stepRunsDecodedInstruction : Obligations.StepRunsDecodedInstruction := by
  intro s k op i hb hw hf hhigh hlow hi _
  have hcurrent : s.current = i := (congrArg decode (State.fetch_eq_of_bytes hhigh hlow)).trans hi
  rw [← hcurrent]
  exact step_of_canStep hb (s.canStep_iff.2 ⟨hw, hf⟩)

/-- Settles O39: a tick counts both timers down and emits the tone of ST before and after (`toneSignal`). -/
theorem tickCountsTimersAndSignalsTone : Obligations.TickCountsTimersAndSignalsTone := by
  intro s rest
  refine ⟨_, step_withEvent s .tick rest, countDown_toNat s.dt, countDown_toNat s.st,
    fun hone => congrArg (s.outputs ++ ·) (toneSignal_of_one hone),
    fun htwo => congrArg (s.outputs ++ ·) (toneSignal_countDown_of_ge_two htwo), fun hzero => ?_, rfl, rfl, rfl, ?_⟩
  · exact (congrArg (s.outputs ++ ·) (toneSignal_countDown_of_zero hzero)).trans (List.append_nil _)
  · have start : Keeps (· ∈ [Part.dt, .st, .outputs, .burst, .events, .loadPhase]) s s := .refl _ s
    have counted := ((start.setBurst (by simp) none).setEvents (by simp) rest).countTimers (by simp) (by simp) (by simp)
    exact (counted.setBurst (by simp) (some Config.stepsPerTick)).closeLoad (by simp)

/-- Settles O40: a used-up or stopped burst is ended by the step (`step_of_stopped`). -/
theorem tickEndsWithRedraw : Obligations.TickEndsWithRedraw := by
  intro s k hb hstop
  exact ⟨_, step_of_stopped hb (hstop.imp_right s.canStep_eq_false_iff.2), rfl, rfl,
    (Keeps.refl (· ∈ [Part.burst, .outputs]) s).endTick (by simp) (by simp)⟩

/-- Settles O41: a repaint is a redraw, and it closes the load port. -/
theorem repaintOnlyRedraws : Obligations.RepaintOnlyRedraws := by
  intro s rest
  have start : Keeps (· ∈ [Part.outputs, .events, .loadPhase]) (s.setBurst none) (s.setBurst none) := .refl _ _
  exact ⟨_, step_withEvent s .repaint rest, rfl, rfl, rfl,
    ((start.setEvents (by simp) rest).redraw (by simp)).closeLoad (by simp)⟩

end Sys2Proof.Proofs
end

section
/-! The reset values after the reset event, and the proof of the reset family (70_reset_and_hazards.md). -/

namespace Sys2Proof.Machine

open Sys2Proof.Claims

/-- The reset event leaves the reset values of its FONT: the fields it carries over are none of R46's elements. -/
theorem State.atResetValues_resetEvent (font : Vector Byte 80) (s : State) : AtResetValues font (s.resetEvent font) :=
  have { memory, regs, index, pc, stack, timers, display, waiting, fault } := State.atResetValues_resetWith font
  { memory, regs, index, pc, stack, timers, display, waiting, fault }

end Sys2Proof.Machine

namespace Sys2Proof.Proofs

open Sys2Proof.Machine

/-! ## The obligation of the reset family -/

/-- Settles O2: the reset event is the step (`step_withEvent`), and it leaves the reset values whatever the state was. -/
theorem resetEventRestoresResetValues : Obligations.ResetEventRestoresResetValues :=
  ⟨State.atResetValues_resetEvent, fun s rest =>
    ⟨_, step_withEvent s .reset rest, State.atResetValues_resetEvent Config.font _, rfl, rfl, rfl, rfl, rfl⟩⟩

end Sys2Proof.Proofs
end
